-- ==== Sys2Proof/Config.lean ====
section
/-! DEFINITION. What is fixed when the machine is built: the size parameters of spec/00_scope.md R8. No instruction
reads or changes them (R9). There is no free value: the spec leaves no value of this block undefined. -/

namespace Sys2Proof.Config

/-- `C` (MEM_CAPACITY), the number of byte cells of Memory (R8; the spec's decision D1, log 1). -/
abbrev memCapacity : Nat := 256

/-- `R` (REG_COUNT), the number of general-purpose registers (R8; the spec's decision D2, log 1). -/
abbrev regCount : Nat := 8

/-- `W` (REG_WIDTH), the width of every register in bits (R8; the spec's decision D3, log 1). -/
abbrev regWidth : Nat := 8

/-- `PC_WIDTH`, the width of the program counter in bits (R8; the spec's decision D4, log 2). -/
abbrev pcWidth : Nat := 16

/-- `MAX_OPERANDS`, the most operand bytes one instruction has (R8). -/
abbrev maxOperands : Nat := 2

/-- The longest instruction in bytes: its opcode and `MAX_OPERANDS` operand bytes (30_encoding.md R53). -/
abbrev maxInstrBytes : Nat := 1 + maxOperands

end Sys2Proof.Config
end

