-- ==== Sys2Proof/Word.lean ====
section
/-! DEFINITION. The machine's word types: spec/00_scope.md R8. -/

namespace Sys2Proof

/-- An opcode byte, an operand byte or a memory cell: 8 bits (R8). -/
abbrev Byte := BitVec 8

/-- What a register holds and what the output port carries: `W` bits, unsigned (10_state.md R16, R34). -/
abbrev Word := BitVec Config.regWidth

/-- What the program counter holds: `PC_WIDTH` bits, unsigned (10_state.md R22). -/
abbrev PcWord := BitVec Config.pcWidth

end Sys2Proof
end

