-- ==== Sys2Proof/Syntax.lean ====
section
/-! DEFINITION. The instruction set as syntax: spec/30_encoding.md R57 to R59. -/

namespace Sys2Proof

/-- What decode yields for an opcode byte of the table: the closed enumeration of R59. -/
inductive Op where
  | hlt
  | prn
  | ldi
  | mul
  deriving DecidableEq, Repr

/-- One constructor per row of spec/opcode_table.json. An operand is the NUMBER its byte stands for (R55: "the operand
byte read as an unsigned number, 0 to 255"); that it fits its byte is `Instr.wf` (log 19). -/
inductive Instr where
  /-- `HLT` (44_hlt.md R113). -/
  | hlt
  /-- `PRN rA` (43_prn.md R107): `a` is a register index. -/
  | prn (a : Nat)
  /-- `LDI rA,imm` (41_ldi.md R91): `a` is a register index, `b` an immediate literal. -/
  | ldi (a b : Nat)
  /-- `MUL rD,rS` (42_alu.md R101): `a` is the destination register index, `b` the source register index. -/
  | mul (a b : Nat)
  deriving DecidableEq, Repr

end Sys2Proof
end

