-- ==== Sys2Proof/WellFormed.lean ====
section
/-! DEFINITION. Which instructions have an encoding: spec/30_encoding.md R55, R67, R69. Every operand takes any value
of its byte; a register index of `R` or more is well formed and faults only when the instruction runs. -/

namespace Sys2Proof

/-- An operand that fits its byte: 0 to 255 (R55, R67, R69). -/
def operandFits (n : Nat) : Bool := decide (n < 256)

/-- The instruction has an encoding: each of its operands fits its byte. -/
def Instr.wf : Instr → Bool
  | .hlt => true
  | .prn a => operandFits a
  | .ldi a b => operandFits a && operandFits b
  | .mul a b => operandFits a && operandFits b

end Sys2Proof
end

