-- ==== Sys2Proof/Decode.lean ====
section
/-! DEFINITION. The opcode table, the instruction-length decoder, the decoder and the encoder: spec/30_encoding.md. -/

namespace Sys2Proof

/-- A row of the opcode table, "explicit data (`opcode -> operand_count`)" (R57, R60). -/
structure OpcodeRow where
  opcode : Byte
  op : Op
  operandCount : Nat
  deriving DecidableEq, Repr

/-- The table's row of each operation: R57. -/
def rowOf : Op → OpcodeRow
  | .hlt => { opcode := 0x01, op := .hlt, operandCount := 0 }
  | .prn => { opcode := 0x47, op := .prn, operandCount := 1 }
  | .ldi => { opcode := 0x82, op := .ldi, operandCount := 2 }
  | .mul => { opcode := 0xA2, op := .mul, operandCount := 2 }

/-- The opcode table: exactly four rows, never mutated (R57, R58). -/
def opcodeTable : List OpcodeRow := [rowOf .hlt, rowOf .prn, rowOf .ldi, rowOf .mul]

/-- Decode's lookup of `ir` in the opcode table; `none` is "absent" (R59, R64). -/
def lookup (ir : Byte) : Option OpcodeRow := opcodeTable.find? fun row => row.opcode == ir

/-- The instruction-length decoder's `operand_count` (R60); none for a byte outside the table. -/
def operandCount (ir : Byte) : Option Nat := (lookup ir).map OpcodeRow.operandCount

/-- The instruction length in bytes, opcode and operands (R60). -/
def instrLength (ir : Byte) : Option Nat := (operandCount ir).map (1 + ·)

/-- The instruction an operation and its operand bytes make. HLT uses neither byte and PRN only the first
(40_engine_cycle.md R80). -/
def Op.withOperands (op : Op) (opa opb : Byte) : Instr :=
  match op with
  | .hlt => .hlt
  | .prn => .prn opa.toNat
  | .ldi => .ldi opa.toNat opb.toNat
  | .mul => .mul opa.toNat opb.toNat

/-- Why bytes are not an instruction. -/
inductive DecodeError where
  /-- There is no opcode byte. -/
  | noOpcode
  /-- The opcode byte is not in the table (R64). -/
  | unknownOpcode (byte : Byte)
  /-- The opcode is in the table and the bytes end before its last operand. -/
  | missingOperand (opcode : Byte)
  deriving DecidableEq, Repr

/-- The decoder: the instruction that bytes begin with, and the bytes after it. Operand bytes are not checked (R67). -/
def decode : List Byte → Except DecodeError (Instr × List Byte)
  | [] => .error .noOpcode
  | ir :: rest =>
    match lookup ir with
    | none => .error (.unknownOpcode ir)
    | some row =>
      if rest.length < row.operandCount then .error (.missingOperand ir)
      else .ok (row.op.withOperands (rest.getD 0 0) (rest.getD 1 0), rest.drop row.operandCount)

/-- The operation of an instruction. -/
def Instr.op : Instr → Op
  | .hlt => .hlt
  | .prn _ => .prn
  | .ldi _ _ => .ldi
  | .mul _ _ => .mul

/-- The operands of an instruction, in the order of their bytes (R54). -/
def Instr.operands : Instr → List Nat
  | .hlt => []
  | .prn a => [a]
  | .ldi a b => [a, b]
  | .mul a b => [a, b]

/-- The byte that holds an operand (R55). -/
def operandByte (n : Nat) : Byte := BitVec.ofNat 8 n

/-- The encoder: the opcode at the lowest address, the operands after it (R53, R54, 20_memory.md R44). -/
def encode (i : Instr) : List Byte := (rowOf i.op).opcode :: i.operands.map operandByte

/-- The bytes of an instruction given as one number, the first byte in bits 7..0 (R53); every bit from `nbits` up is 0. -/
def wordBytes (nbits w : Nat) : List Byte :=
  (List.range Config.maxInstrBytes).map fun k => BitVec.ofNat 8 (w % 2 ^ nbits / 2 ^ (8 * k))

/-- What the decoder reads from an opcode-table word (log 23). -/
def decodeTableWord (nbits w : Nat) : Option Instr :=
  match decode (wordBytes nbits w) with
  | .ok (i, _) => some i
  | .error _ => none

end Sys2Proof
end

