-- ==== Sys2Proof/Machine/State.lean ====
section
/-! DEFINITION. The state of one machine, the tuple of spec/10_state.md R12, its reset value (spec/70_reset_and_hazards.md
R140), and the reasons a step can stop. -/

namespace Sys2Proof.Machine

/-- The engine state (10_state.md R28). -/
inductive EngineState where
  /-- Before the first fetch; the loader port is open. -/
  | ready
  /-- The run is going on. -/
  | running
  /-- Terminal, success. -/
  | halted
  /-- Terminal, error. -/
  | faulted
  deriving DecidableEq, Repr

/-- The ALU's operation select: an internal enumeration with one constructor (42_alu.md R105). -/
inductive AluOp where
  | mul
  deriving DecidableEq, Repr

/-- The four fault kinds (60_exceptions.md R117). -/
inductive FaultKind where
  | outOfBounds
  | invalidRegister
  | unknownOpcode
  | unsupportedOperation
  deriving DecidableEq, Repr

/-- The fault record: a kind with the info of that kind (10_state.md R29). Only the `unknownOpcode` info comes from the
source; the other three are the spec's decision D8 (log 6). -/
inductive FaultRecord where
  /-- The address that failed the bounds check. -/
  | outOfBounds (address : Nat)
  /-- The register index that failed the check. -/
  | invalidRegister (index : Nat)
  /-- The opcode byte, the value of `ir`. -/
  | unknownOpcode (byte : Byte)
  /-- The ALU operation that was requested. -/
  | unsupportedOperation (op : AluOp)
  deriving DecidableEq, Repr

/-- Memory: the cells that differ from their reset contents, as (address, byte) pairs with addresses strictly rising.
An unlisted address reads as 0 (10_state.md R13, R14; log 14). -/
abbrev Memory := List Host.Cell

/-- The canonical form: every address is in `[0, C)`, addresses rise strictly, and no entry is 0, what an unlisted
address reads as. -/
def Memory.wf : Memory → Bool
  | [] => true
  | c :: m => decide (c.1 < Config.memCapacity) && c.2 != 0 && m.all (fun d => decide (c.1 < d.1)) && Memory.wf m

/-- The state `(M, x, pc, ir, opa, opb, state, fault)` of 10_state.md R12, and the output sequence. -/
structure State where
  /-- `M`, Memory (R13). -/
  mem : Memory
  /-- `x`, the register file (R15, R16). -/
  regs : Vector Word Config.regCount
  /-- `pc`, the program counter (R22). -/
  pc : PcWord
  /-- `ir`, the instruction register (R26). -/
  ir : Byte
  /-- `opa`, the operand latch of byte 1 (R25). -/
  opa : Byte
  /-- `opb`, the operand latch of byte 2 (R25). -/
  opb : Byte
  /-- `state`, the engine state (R28). -/
  engine : EngineState
  /-- `fault`, the fault record; `none` is the spec's "no fault record" (R29, R30). -/
  fault : Option FaultRecord
  /-- The values sent on the output port so far, oldest first (43_prn.md R110). The model's own field: an observation of
  the run that no instruction reads (10_state.md R12; log 11). -/
  output : List Word
  deriving DecidableEq, Repr

/-- Why no step exists. The faults of the SPEC are no constructors here: taking one is a next state, with `engine` at
`faulted` and the record in `fault` (60_exceptions.md R121; log 9). -/
inductive Fault where
  /-- `step` in `Halted`: terminal, no step exists (40_engine_cycle.md R73). Safe. -/
  | haltedHasNoStep
  /-- `step` in `Faulted`: terminal, no step exists (40_engine_cycle.md R73). Safe. -/
  | faultedHasNoStep
  deriving DecidableEq, Repr

/-- Why an instruction has no meaning. -/
inductive Refusal where
  /-- Raised by an arm of `exec` whose instruction has no meaning yet; no arm does. Safe. -/
  | notModelled (mnemonic : String)
  deriving DecidableEq, Repr

/-- What a step or a meaning answers. -/
abbrev StepResult := Host.Outcome State Fault Refusal

/-- The state right after construction, before loading (70_reset_and_hazards.md R140). -/
def State.reset : State where
  mem := []
  regs := Vector.replicate Config.regCount 0
  pc := 0
  ir := 0
  opa := 0
  opb := 0
  engine := .ready
  fault := none
  output := []

end Sys2Proof.Machine
end

