-- ==== Sys2Proof/Machine/Ops.lean ====
section
/-! DEFINITION. The named operations: memory access, the updates of one piece of state, taking a fault, the PC sequencer. -/

namespace Sys2Proof.Machine

/-- The kind of a fault record (10_state.md R29). -/
def FaultRecord.kind : FaultRecord → FaultKind
  | .outOfBounds _ => .outOfBounds
  | .invalidRegister _ => .invalidRegister
  | .unknownOpcode _ => .unknownOpcode
  | .unsupportedOperation _ => .unsupportedOperation

/-- The kind's numeric code (60_exceptions.md R117; the spec's decision D8, log 6). -/
def FaultKind.code : FaultKind → Nat
  | .outOfBounds => 0
  | .invalidRegister => 1
  | .unknownOpcode => 2
  | .unsupportedOperation => 3

/-- `M[a]`: the byte of a cell, 0 where nothing is listed (10_state.md R14). -/
def Memory.cell : Memory → Nat → Byte
  | [], _ => 0
  | (b, w) :: m, a => if a = b then w else Memory.cell m a

/-- `M[a] <- v`, keeping the canonical form. -/
def Memory.store : Memory → Nat → Byte → Memory
  | [], a, v => if v = 0 then [] else [(a, v)]
  | (b, w) :: m, a, v =>
    if a < b then (if v = 0 then (b, w) :: m else (a, v) :: (b, w) :: m)
    else if a = b then (if v = 0 then m else (a, v) :: m)
    else (b, w) :: Memory.store m a v

/-- `MemRead(a, 1)` (20_memory.md R39). The rule's test `a < 0` has no counterpart: an address is a natural (log 15). -/
def memRead (a : Nat) (m : Memory) : Except FaultRecord Byte :=
  if a < Config.memCapacity then .ok (m.cell a) else .error (.outOfBounds a)

/-- `MemWrite(a, 1, v)` (20_memory.md R40). -/
def memWrite (a : Nat) (v : Byte) (m : Memory) : Except FaultRecord Memory :=
  if a < Config.memCapacity then .ok (m.store a v) else .error (.outOfBounds a)

/-- Memory becomes `m` (the loader port only, 20_memory.md R43). -/
def State.setMem (s : State) (m : Memory) : State := { s with mem := m }

/-- `pc <- p` (10_state.md R24). -/
def State.setPc (s : State) (p : PcWord) : State := { s with pc := p }

/-- `ir <- b` (10_state.md R26). -/
def State.latchIr (s : State) (b : Byte) : State := { s with ir := b }

/-- `opa <- b` (10_state.md R25). -/
def State.latchOpa (s : State) (b : Byte) : State := { s with opa := b }

/-- `opb <- b` (10_state.md R25). -/
def State.latchOpb (s : State) (b : Byte) : State := { s with opb := b }

/-- `state <- e` (10_state.md R28). -/
def State.setEngine (s : State) (e : EngineState) : State := { s with engine := e }

/-- `emit(v)`: one event on the output port, which takes every value at once (43_prn.md R109, R111). -/
def State.emit (s : State) (v : Word) : State := { s with output := s.output ++ [v] }

/-- The effect of `raise Fault(kind, info)`: `state <- Faulted`, `fault <- (kind, info)`, and nothing else
(60_exceptions.md R121). -/
def State.faultWith (s : State) (r : FaultRecord) : State := { s with engine := .faulted, fault := some r }

/-- Taking a fault, the one shared operation: the cycle ends here, in the state `Faulted` (60_exceptions.md R121). There
is no return from it (R127). -/
def raiseFault (r : FaultRecord) (s : State) : StepResult := .next (s.faultWith r)

/-- The PC sequencer: `pc <- pc + 1 + operand_count(op)` (40_engine_cycle.md R82). The sum does not wrap for an instruction
that lies inside Memory (R84; log 2). -/
def State.advancePc (s : State) (op : Op) : State :=
  s.setPc (s.pc + BitVec.ofNat Config.pcWidth (1 + (rowOf op).operandCount))

/-- The end of the execute step of LDI, MUL and PRN: the PC update if the effect was had, fault entry in the state before
the effect if a check failed (40_engine_cycle.md R82, R87). -/
def completeCycle (op : Op) (effect : Except FaultRecord State) (s : State) : StepResult :=
  match effect with
  | .ok t => .next (t.advancePc op)
  | .error r => raiseFault r s

end Sys2Proof.Machine
end

