-- ==== Sys2Proof/Machine/Flags.lean ====
section
/-! DEFINITION. What a result leaves besides its stored bits: NOTHING. The block has no flag, condition code or status
register (10_state.md R31), and the bits of a result above the register's width "are discarded and recorded nowhere"
(42_alu.md R100). So this file holds the narrowing alone. -/

namespace Sys2Proof.Machine

/-- `trunc_W(v) = v mod 2^W` (00_scope.md R10, 10_state.md R19). -/
def truncW (v : Nat) : Word := BitVec.ofNat Config.regWidth v

end Sys2Proof.Machine
end

