-- ==== Sys2Proof/Machine/Operands.lean ====
section
/-! DEFINITION. The operand forms of spec/30_encoding.md R55: a register index, read and written through the register
file's bounds-checked `get` and `set` (10_state.md R19, R20), and an immediate literal, which is the number itself (R56).
No register is hard-wired, aliased or banked (10_state.md R15). -/

namespace Sys2Proof.Machine

/-- Register File `get(index)`: `x[i]`, or `InvalidRegister(i)` (10_state.md R20). -/
def regGet (i : Nat) (s : State) : Except FaultRecord Word :=
  if h : i < Config.regCount then .ok s.regs[i] else .error (.invalidRegister i)

/-- Register File `set(index, value)`: `x[i] <- trunc_W(v)` for any natural `v`, or `InvalidRegister(i)`
(10_state.md R19, R20). -/
def regSet (i v : Nat) (s : State) : Except FaultRecord State :=
  if h : i < Config.regCount then .ok { s with regs := s.regs.set i (truncW v) h } else .error (.invalidRegister i)

end Sys2Proof.Machine
end

