-- ==== Sys2Proof/Machine/Alu.lean ====
section
/-! DEFINITION. The arithmetic unit and its one instruction: spec/42_alu.md. -/

namespace Sys2Proof.Machine

/-- The operations the ALU supports: exactly {MUL} (R96). -/
def supportedOps : List AluOp := [.mul]

/-- The exact result over the naturals (R97, R98). -/
def aluResult : AluOp → Nat → Nat → Nat
  | .mul, xd, xs => xd * xs

/-- `ALU(op, d, s)`, "apply(operation, dest_index, src_index)" (R95, R97): operation check, index d, index s (R124), then
the one write, which truncates. The first arm is the spec's `UnsupportedOperation`, which nothing reaches (R104; log 16). -/
def aluApply (op : AluOp) (d src : Nat) (s : State) : Except FaultRecord State :=
  if op ∈ supportedOps then
    match regGet d s with
    | .error r => .error r
    | .ok xd =>
      match regGet src s with
      | .error r => .error r
      | .ok xs => regSet d (aluResult op xd.toNat xs.toNat) s
  else .error (.unsupportedOperation op)

/-- MUL (R101): `ALU(MUL, a, b)`, then `pc <- pc + 3`. -/
def execMul (a b : Nat) (s : State) : StepResult := completeCycle .mul (aluApply .mul a b s) s

end Sys2Proof.Machine
end

