-- ==== Sys2Proof/Machine/Halt.lean ====
section
/-! DEFINITION. The halt family: spec/44_hlt.md. -/

namespace Sys2Proof.Machine

/-- HLT (R113): `state <- Halted`, with no PC update (R115). -/
def execHlt (s : State) : StepResult := .next (s.setEngine .halted)

end Sys2Proof.Machine
end

