-- ==== Sys2Proof/Machine/Load.lean ====
section
/-! DEFINITION. The load-immediate family: spec/41_ldi.md. -/

namespace Sys2Proof.Machine

/-- LDI (R91): `x[a] <- b`, then `pc <- pc + 3`. -/
def execLdi (a b : Nat) (s : State) : StepResult := completeCycle .ldi (regSet a b s) s

end Sys2Proof.Machine
end

