-- ==== Sys2Proof/Machine/Print.lean ====
section
/-! DEFINITION. The print family, the one user of the output port: spec/43_prn.md. -/

namespace Sys2Proof.Machine

/-- PRN (R107): `emit(x[a])`, then `pc <- pc + 2`. Its operand is its own cycle's byte (R108; log 5). -/
def execPrn (a : Nat) (s : State) : StepResult := completeCycle .prn ((regGet a s).map s.emit) s

end Sys2Proof.Machine
end

