-- ==== Sys2Proof/Machine/Fetch.lean ====
section
/-! DEFINITION. Fetch and operand fetch: spec/40_engine_cycle.md R77, R79. Addresses are naturals: `pc + k` is never
reduced modulo anything (20_memory.md R38). -/

namespace Sys2Proof.Machine

/-- Fetch: `ir <- MemRead(pc, 1)`; on a fault `ir` is not written (R77). -/
def fetchOpcode (s : State) : Except FaultRecord State := (memRead s.pc.toNat s.mem).map s.latchIr

/-- Operand a: `opa <- MemRead(pc + 1, 1)` if the instruction has one or two operands (R79). -/
def fetchOpa (n : Nat) (s : State) : Except FaultRecord State :=
  if 1 ≤ n then (memRead (s.pc.toNat + 1) s.mem).map s.latchOpa else .ok s

/-- Operand b: `opb <- MemRead(pc + 2, 1)` if the instruction has two operands (R79). -/
def fetchOpb (n : Nat) (s : State) : Except FaultRecord State :=
  if 2 ≤ n then (memRead (s.pc.toNat + 2) s.mem).map s.latchOpb else .ok s

/-- The cells from address `p` up to the end of Memory, in address order: what an instruction at `p` is read from. -/
def codeFrom (m : Memory) (p : Nat) : List Byte := (List.range' p (Config.memCapacity - p)).map m.cell

/-- The state in which a cycle executes `i`: `Running` (R75), with `ir` and the latches `i` has operands for loaded, the
others as they were (R80). -/
def State.latched (s : State) (i : Instr) : State :=
  let t := (s.setEngine .running).latchIr (rowOf i.op).opcode
  match i.operands with
  | [] => t
  | [a] => t.latchOpa (operandByte a)
  | a :: b :: _ => (t.latchOpa (operandByte a)).latchOpb (operandByte b)

end Sys2Proof.Machine
end

