-- ==== Sys2Proof/Machine/Cycle.lean ====
section
/-! DEFINITION. One fetch-decode-execute cycle: spec/40_engine_cycle.md R76. -/

namespace Sys2Proof.Machine

/-- The pseudocode of R76: fetch, decode, operand fetch, execute; the PC update is the last part of the meaning that
`exec` calls. The first check that fails ends the cycle with its fault (60_exceptions.md R124), and latches that were
loaded before it keep what they were loaded with (log 12). -/
def cycle (s : State) : StepResult :=
  let s0 := s.setEngine .running
  match fetchOpcode s0 with
  | .error r => raiseFault r s0
  | .ok s1 =>
    match lookup s1.ir with
    | none => raiseFault (.unknownOpcode s1.ir) s1
    | some row =>
      match fetchOpa row.operandCount s1 with
      | .error r => raiseFault r s1
      | .ok s2 =>
        match fetchOpb row.operandCount s2 with
        | .error r => raiseFault r s2
        | .ok s3 => exec (row.op.withOperands s3.opa s3.opb) s3

/-- The cells of an instruction word laid from address `p` on; a byte past the end of Memory is not stored (log 17). -/
def storeBytes (m : Memory) (p : Nat) : List Byte → Memory
  | [] => m
  | b :: bs => storeBytes (if p < Config.memCapacity then m.store p b else m) (p + 1) bs

end Sys2Proof.Machine
end

