-- ==== Sys2Proof/Machine/Step.lean ====
section
/-! DEFINITION. The machine's step: spec/40_engine_cycle.md R73 to R76. -/

namespace Sys2Proof.Machine

/-- One step is one cycle. A step exists exactly when the engine is `Ready` or `Running`; `Halted` and `Faulted` are
terminal (R73, R74; log 9). -/
def step (s : State) : Host.Outcome State Fault Refusal :=
  match s.engine with
  | .ready => cycle s
  | .running => cycle s
  | .halted => .fault .haltedHasNoStep
  | .faulted => .fault .faultedHasNoStep

/-- `s` with an instruction word stored where the next fetch reads, at `pc` (log 17). -/
def State.withFetchWord (s : State) (nbits w : Nat) : State :=
  s.setMem (storeBytes s.mem s.pc.toNat (wordBytes nbits w))

end Sys2Proof.Machine
end

