-- ==== Sys2Proof/Machine/Assembler.lean ====
section
/-! DEFINITION. The assembler syntax of spec/30_encoding.md R68 to R71 (the spec's decision D19; what it leaves open is in
log 20). Text is a list of characters, one instruction a line. No machine step uses this file. -/

namespace Sys2Proof.Machine

/-- Why a line is no instruction. -/
inductive AsmError where
  /-- The mnemonic is none of the table's four; there are no pseudo-instructions (R71). -/
  | unknownMnemonic
  /-- The number of operands is not the instruction's. -/
  | wrongOperandCount
  /-- An operand token is no register or literal that has an encoding (R69). -/
  | badOperand
  deriving DecidableEq, Repr

def isBlank (c : Char) : Bool := c == ' ' || c == '\t'

def dropBlanks (l : List Char) : List Char := l.dropWhile isBlank

/-- A token without the blanks around it. -/
def trimBlanks (l : List Char) : List Char := (dropBlanks (dropBlanks l).reverse).reverse

/-- The parts of a line between its commas. -/
def splitCommas : List Char → List (List Char)
  | [] => [[]]
  | c :: cs =>
    if c == ',' then [] :: splitCommas cs
    else
      match splitCommas cs with
      | [] => [[c]]
      | t :: ts => (c :: t) :: ts

def decDigit (c : Char) : Option Nat :=
  if 48 ≤ c.toNat ∧ c.toNat ≤ 57 then some (c.toNat - 48) else none

def hexDigit (c : Char) : Option Nat :=
  if 48 ≤ c.toNat ∧ c.toNat ≤ 57 then some (c.toNat - 48)
  else if 65 ≤ c.toNat ∧ c.toNat ≤ 70 then some (c.toNat - 55)
  else if 97 ≤ c.toNat ∧ c.toNat ≤ 102 then some (c.toNat - 87)
  else none

/-- Decimal digits read after a number `acc`. -/
def decDigitsFrom : Nat → List Char → Option Nat
  | acc, [] => some acc
  | acc, c :: cs =>
    match decDigit c with
    | some d => decDigitsFrom (10 * acc + d) cs
    | none => none

/-- A value that has an encoding in an operand byte (R69). -/
def byteValue (n : Nat) : Option Nat := if operandFits n then some n else none

/-- A decimal number from 0 to 255. -/
def readDecimal : List Char → Option Nat
  | [] => none
  | c :: cs => (decDigitsFrom 0 (c :: cs)).bind byteValue

/-- `rN`, with `N` in 0 to 255: an `N` of `R` or more assembles (R69). -/
def readRegister : List Char → Option Nat
  | 'r' :: ds => readDecimal ds
  | _ => none

/-- A decimal number from 0 to 255, or a hex number `0x00` to `0xFF` (R69). -/
def readImmediate : List Char → Option Nat
  | ['0', 'x', h, l] =>
    match hexDigit h, hexDigit l with
    | some a, some b => some (16 * a + b)
    | _, _ => none
  | ds => readDecimal ds

def mnemonicOf : Op → List Char
  | .hlt => ['H', 'L', 'T']
  | .prn => ['P', 'R', 'N']
  | .ldi => ['L', 'D', 'I']
  | .mul => ['M', 'U', 'L']

/-- A mnemonic is upper case (R68). -/
def readMnemonic (t : List Char) : Option Op := [Op.hlt, .prn, .ldi, .mul].find? fun op => mnemonicOf op == t

def readOperand (o : Option Nat) : Except AsmError Nat :=
  match o with
  | some n => .ok n
  | none => .error .badOperand

/-- The operands of an operation, from their tokens (R68). -/
def readOperands (op : Op) (tokens : List (List Char)) : Except AsmError Instr :=
  match op, tokens with
  | .hlt, [] => .ok .hlt
  | .prn, [t] => (readOperand (readRegister t)).map .prn
  | .ldi, [t, u] =>
    match readRegister t, readImmediate u with
    | some a, some b => .ok (.ldi a b)
    | _, _ => .error .badOperand
  | .mul, [t, u] =>
    match readRegister t, readRegister u with
    | some a, some b => .ok (.mul a b)
    | _, _ => .error .badOperand
  | _, _ => .error .wrongOperandCount

/-- One line of assembler text: `MNEMONIC op,op` (R68). -/
def parseLine (line : List Char) : Except AsmError Instr :=
  let text := trimBlanks line
  let mnemonic := text.takeWhile fun c => !isBlank c
  let rest := dropBlanks (text.dropWhile fun c => !isBlank c)
  match readMnemonic mnemonic with
  | none => .error .unknownMnemonic
  | some op => readOperands op (if rest.isEmpty then [] else (splitCommas rest).map trimBlanks)

/-- The bytes a line assembles to. -/
def assembleLine (line : List Char) : Except AsmError (List Byte) := (parseLine line).map encode

/-- The decimal spelling of a number, the library's. -/
def decimal (n : Nat) : List Char := Nat.toDigits 10 n

/-- The source's own spelling of an instruction, `LDI r0,8` (R68, R72). -/
def printInstr : Instr → List Char
  | .hlt => mnemonicOf .hlt
  | .prn a => mnemonicOf .prn ++ ' ' :: 'r' :: decimal a
  | .ldi a b => mnemonicOf .ldi ++ ' ' :: 'r' :: decimal a ++ ',' :: decimal b
  | .mul a b => mnemonicOf .mul ++ ' ' :: 'r' :: decimal a ++ ',' :: 'r' :: decimal b

end Sys2Proof.Machine
end

