-- ==== Sys2Proof/Machine/HostPort.lean ====
section
/-! DEFINITION. What the outside does to the machine and sees of it: the loader write port, the observation interface,
the boot order and the end of a run (spec/10_state.md R33 to R35, spec/70_reset_and_hazards.md R143 to R148). -/

namespace Sys2Proof.Machine

/-- Why a loader write fails (70_reset_and_hazards.md R145; the spec's decision D13, log 10). -/
inductive LoadFailure where
  /-- The write's bounds check failed (20_memory.md R40). -/
  | memoryFault (r : FaultRecord)
  /-- The machine is not `Ready`: the port takes no write (10_state.md R33). -/
  | portClosed
  deriving DecidableEq, Repr

/-- How a load ends. A failed load leaves the machine as the writes before the failure left it; it must not be run (R145). -/
inductive LoadResult where
  | loaded (s : State)
  | failed (why : LoadFailure) (s : State)
  deriving DecidableEq, Repr

/-- One write through the loader port: `MemWrite(a, 1, v)` while `state = Ready` (10_state.md R33). -/
def loaderWrite (a : Nat) (v : Byte) (s : State) : LoadResult :=
  if s.engine = .ready then
    match memWrite a v s.mem with
    | .ok m => .loaded (s.setMem m)
    | .error r => .failed (.memoryFault r) s
  else .failed .portClosed s

/-- The loader's `(address, byte-value)` pairs, written in order up to the first failure (R144). -/
def loadPairs : List Host.Cell → State → LoadResult
  | [], s => .loaded s
  | (a, v) :: ps, s =>
    match loaderWrite a v s with
    | .loaded t => loadPairs ps t
    | .failed why t => .failed why t

/-- The pairs of an image laid sequentially from address `k` on. -/
def imagePairs : Nat → List Byte → List Host.Cell
  | _, [] => []
  | k, b :: bs => (k, b) :: imagePairs (k + 1) bs

/-- "load image at address 0, sequentially" (R144). -/
def loadImage (image : List Byte) (s : State) : LoadResult := loadPairs (imagePairs 0 image) s

/-- Boot steps 1 and 2: a fresh machine, then the image (R143). -/
def boot (image : List Byte) : LoadResult := loadImage image State.reset

/-- Boot step 3: at most `n` steps, up to a terminal state, which is left as it is (R143). -/
def drive : Nat → State → State
  | 0, s => s
  | n + 1, s =>
    match step s with
    | .next t => drive n t
    | .fault _ => s
    | .refused _ => s

/-- What the embedder may read (10_state.md R35): everything but `ir`, `opa` and `opb` (R36). -/
structure Observation where
  state : EngineState
  /-- Defined only in `Faulted` (R29). -/
  fault : Option FaultRecord
  x : Vector Word Config.regCount
  pc : PcWord
  cells : List Byte
  deriving DecidableEq, Repr

/-- The embedder's reads; they have no side effect (R35). -/
def observe (s : State) : Observation where
  state := s.engine
  fault := if s.engine = .faulted then s.fault else none
  x := s.regs
  pc := s.pc
  cells := codeFrom s.mem 0

/-- What a run produced: `(state, fault, x, pc, emitted sequence)` (R148). -/
structure RunResult where
  state : EngineState
  fault : Option FaultRecord
  x : Vector Word Config.regCount
  pc : PcWord
  emitted : List Word
  deriving DecidableEq, Repr

/-- The result of a run that has ended; a machine in `Ready` or `Running` has not ended its run (R148). -/
def runResult (s : State) : Option RunResult :=
  if s.engine = .halted ∨ s.engine = .faulted then
    some { state := s.engine, fault := if s.engine = .faulted then s.fault else none,
           x := s.regs, pc := s.pc, emitted := s.output }
  else none

/-- The whole boot order with at most `n` steps: a machine whose load failed is not stepped (R143, R145). -/
def runImage (image : List Byte) (n : Nat) : Except LoadFailure State :=
  match boot image with
  | .loaded s => .ok (drive n s)
  | .failed why _ => .error why

end Sys2Proof.Machine
end

