-- ==== Sys2Proof/Safety.lean ====
section
/-! DEFINITION. The terms claims use: active and ended machines, what a fault record and a halt mean, the invariant of
every reachable state, and equality up to the latches nobody can see. -/

namespace Sys2Proof.Machine

/-- A step exists: `state` is `Ready` or `Running` (40_engine_cycle.md R73). -/
def State.Active (s : State) : Prop := s.engine = .ready ∨ s.engine = .running

/-- The run is over: `state` is `Halted` or `Faulted` (70_reset_and_hazards.md R148). -/
def State.Ended (s : State) : Prop := s.engine = .halted ∨ s.engine = .faulted

/-- Every register index the instruction uses exists (60_exceptions.md R119). LDI's literal is no index (R124). -/
def RegistersExist : Instr → Prop
  | .hlt => True
  | .prn a => a < Config.regCount
  | .ldi a _ => a < Config.regCount
  | .mul a b => a < Config.regCount ∧ b < Config.regCount

/-- How far a completed cycle of the instruction advances `pc` (40_engine_cycle.md R83). -/
def pcAdvance : Instr → Nat
  | .hlt => 0
  | .prn _ => 2
  | .ldi _ _ => 3
  | .mul _ _ => 3

/-- The cell `k` past the one at `pc`. -/
def State.codeByte (s : State) (k : Nat) : Byte := s.mem.cell (s.pc.toNat + k)

/-- One step of `s` ends in `Faulted` with the record `r`, and Memory, registers, `pc` and output are as they were
(60_exceptions.md R121, R122). -/
def State.StepRaises (s : State) (r : FaultRecord) : Prop :=
  ∃ t, step s = .next t ∧ t.engine = .faulted ∧ t.fault = some r ∧
    t.mem = s.mem ∧ t.regs = s.regs ∧ t.pc = s.pc ∧ t.output = s.output

/-- The record is one the cycle at `pc` can have raised (10_state.md R29, 60_exceptions.md R122). -/
def FaultRecord.ExplainedBy (r : FaultRecord) (s : State) : Prop :=
  match r with
  | .outOfBounds a => Config.memCapacity ≤ a ∧ s.pc.toNat ≤ a ∧ a ≤ s.pc.toNat + Config.maxOperands
  | .invalidRegister i =>
    Config.regCount ≤ i ∧ ∃ k, 1 ≤ k ∧ k ≤ Config.maxOperands ∧ s.pc.toNat + k < Config.memCapacity ∧
      i = (s.mem.cell (s.pc.toNat + k)).toNat
  | .unknownOpcode b => s.pc.toNat < Config.memCapacity ∧ s.mem.cell s.pc.toNat = b ∧ lookup b = none
  | .unsupportedOperation _ => False

/-- What holds of every state a run can reach. -/
structure State.Inv (s : State) : Prop where
  /-- Memory keeps its canonical form. -/
  memWf : s.mem.wf = true
  /-- `pc` lies in `[0, C]` (10_state.md R23). -/
  pcInRange : s.pc.toNat ≤ Config.memCapacity
  /-- A fault record is there exactly in `Faulted` (10_state.md R29, R30). -/
  faultIffFaulted : s.fault.isSome = true ↔ s.engine = .faulted
  /-- The record says what the cell at `pc` shows. -/
  faultExplained : ∀ r, s.fault = some r → r.ExplainedBy s
  /-- `Halted` stands at an HLT opcode byte (44_hlt.md R115, R116). -/
  haltedAtHlt : s.engine = .halted → s.pc.toNat < Config.memCapacity ∧ s.mem.cell s.pc.toNat = 0x01
  /-- Before the first step everything but Memory is at its reset value (70_reset_and_hazards.md R140). -/
  readyIsFresh : s.engine = .ready → s = State.reset.setMem s.mem

/-- The two states differ at most in `ir`, `opa` and `opb`, the state nobody outside can see (10_state.md R36). -/
def State.SameButLatches (s t : State) : Prop :=
  t = { s with ir := t.ir, opa := t.opa, opb := t.opb }

end Sys2Proof.Machine
end

