-- ==== Sys2Proof/Certificates/Slice0/Obligations.lean ====
section
/-! DEFINITION. The statements about the machine, from the numbered rules of spec/. Where a clause rests on a decision or
a derivation that the spec marks as its own (spec/92_eei_decisions.md), the docstring names it and the log entry. -/

open Sys2Proof Sys2Proof.Machine

/-! ## Encoding -/

/-- Decoding the bytes of a well-formed instruction gives it back, with every operand at every value of its byte, and
leaves the bytes after it (30_encoding.md R53, R54, R57, R67). -/
def Obligations.DecodeOfEncodeIsTheInstruction : Prop :=
  ∀ (i : Instr) (rest : List Byte), i.wf = true → decode (encode i ++ rest) = .ok (i, rest)

/-- The other direction: bytes that decode are the encoding of a well-formed instruction, so each word has one meaning
(30_encoding.md R57, R64). -/
def Obligations.DecodedBytesAreTheEncoding : Prop :=
  ∀ (bs : List Byte) (i : Instr) (rest : List Byte),
    decode bs = .ok (i, rest) → i.wf = true ∧ bs = encode i ++ rest

/-- The source's five encoding examples, written out (30_encoding.md R72). -/
def Obligations.SourceEncodingExamples : Prop :=
  decode [0x82, 0x00, 0x08] = .ok (.ldi 0 8, []) ∧ encode (.ldi 0 8) = [0x82, 0x00, 0x08] ∧
  decode [0x82, 0x01, 0x09] = .ok (.ldi 1 9, []) ∧ encode (.ldi 1 9) = [0x82, 0x01, 0x09] ∧
  decode [0xA2, 0x00, 0x01] = .ok (.mul 0 1, []) ∧ encode (.mul 0 1) = [0xA2, 0x00, 0x01] ∧
  decode [0x47, 0x00] = .ok (.prn 0, []) ∧ encode (.prn 0) = [0x47, 0x00] ∧
  decode [0x01] = .ok (.hlt, []) ∧ encode .hlt = [0x01]

/-- The instruction-length decoder: the four opcode bytes have lengths 1, 2, 3 and 3, every other byte has none
(30_encoding.md R60, the spec's decision D11; log 8). -/
def Obligations.LengthDecoderHasFourRows : Prop :=
  ∀ b : Byte, instrLength b =
    if b = 0x01 then some 1
    else if b = 0x47 then some 2
    else if b = 0x82 then some 3
    else if b = 0xA2 then some 3
    else none

/-- Decoding does not check operand bytes: every value of each is encodable, and an out-of-range register index is
found only when the instruction runs, `82 08 01` for one (30_encoding.md R67). -/
def Obligations.DecodeDoesNotCheckOperands : Prop :=
  (∀ (a b : Byte) (rest : List Byte),
    decode (0x47 :: a :: rest) = .ok (.prn a.toNat, rest) ∧
    decode (0x82 :: a :: b :: rest) = .ok (.ldi a.toNat b.toNat, rest) ∧
    decode (0xA2 :: a :: b :: rest) = .ok (.mul a.toNat b.toNat, rest)) ∧
  decode [0x82, 0x08, 0x01] = .ok (.ldi 8 1, []) ∧
  ∀ s : State, ∃ t r, exec (.ldi 8 1) s = .next t ∧ t.engine = .faulted ∧ t.fault = some r ∧ r.kind = .invalidRegister

/-- The assembler reads the source's spelling of every well-formed instruction, and assembles it to its encoding
(30_encoding.md R68, R69, R72; the spec's decision D19, log 20). -/
def Obligations.AssemblerReadsWhatIsPrinted : Prop :=
  ∀ i : Instr, i.wf = true →
    parseLine (printInstr i) = .ok i ∧ assembleLine (printInstr i) = .ok (encode i)

/-- The assembler yields only instructions that have an encoding, and refuses, as a bad operand, a register number of 256
or more in PRN, LDI and MUL, a decimal literal of 256 or more, and a hex literal of more than two digits
(30_encoding.md R69; the spec's decision D19, log 20). That `0x005`, too, is refused is the model's choice (log 20). -/
def Obligations.AssemblerYieldsOnlyEncodable : Prop :=
  (∀ (line : List Char) (i : Instr), parseLine line = .ok i → i.wf = true) ∧
  (∀ a n : Nat, 256 ≤ n →
    parseLine (['P', 'R', 'N', ' ', 'r'] ++ Nat.toDigits 10 n) = .error .badOperand ∧
    parseLine (['L', 'D', 'I', ' ', 'r'] ++ Nat.toDigits 10 n ++ [','] ++ Nat.toDigits 10 a) = .error .badOperand ∧
    parseLine (['L', 'D', 'I', ' ', 'r'] ++ Nat.toDigits 10 a ++ [','] ++ Nat.toDigits 10 n) = .error .badOperand ∧
    parseLine (['M', 'U', 'L', ' ', 'r'] ++ Nat.toDigits 10 n ++ [',', 'r'] ++ Nat.toDigits 10 a) = .error .badOperand ∧
    parseLine (['M', 'U', 'L', ' ', 'r'] ++ Nat.toDigits 10 a ++ [',', 'r'] ++ Nat.toDigits 10 n) = .error .badOperand) ∧
  ∀ (a : Nat) (ds : List Char), 2 < ds.length → (∀ c ∈ ds, (hexDigit c).isSome = true) →
    parseLine (['L', 'D', 'I', ' ', 'r'] ++ Nat.toDigits 10 a ++ [',', '0', 'x'] ++ ds) = .error .badOperand

/-! ## Reset, the loader port and booting -/

/-- At construction every cell of Memory holds 0 (10_state.md R14). -/
def Obligations.ResetMemoryHoldsZero : Prop :=
  ∀ a, a < Config.memCapacity → memRead a State.reset.mem = .ok 0

/-- The rest of the reset table: registers 0, `pc` 0, latches 0, `Ready`, no fault record, empty output
(70_reset_and_hazards.md R140). `pc`, the latches and the empty output rest on the spec's decisions D5, D20 and on
R140's table (logs 3, 11, 12). -/
def Obligations.ResetRegistersAndEngine : Prop :=
  (∀ i, i < Config.regCount → regGet i State.reset = .ok 0) ∧ State.reset.pc = 0 ∧
  State.reset.ir = 0 ∧ State.reset.opa = 0 ∧ State.reset.opb = 0 ∧
  State.reset.engine = .ready ∧ State.reset.fault = none ∧ State.reset.output = []

/-- The state after reset meets the invariant (70_reset_and_hazards.md R140). Its clause on `Ready` speaks of the reset values
of `pc` and the latches, which are the spec's decisions D5 and D20 (logs 3 and 12). -/
def Obligations.ResetMeetsInvariant : Prop := State.reset.Inv

/-- The loader port takes a write only in `Ready`, bounds checked, and a write changes its cell alone
(10_state.md R33, 20_memory.md R40; the spec's decision D13, log 10). -/
def Obligations.LoaderPortWritesOneCellInReady : Prop :=
  ∀ (a : Nat) (v : Byte) (s : State), s.mem.wf = true →
    (s.engine ≠ .ready → loaderWrite a v s = .failed .portClosed s) ∧
    (s.engine = .ready → Config.memCapacity ≤ a →
      loaderWrite a v s = .failed (.memoryFault (.outOfBounds a)) s) ∧
    (s.engine = .ready → a < Config.memCapacity →
      ∃ m : Memory, loaderWrite a v s = .loaded { s with mem := m } ∧
        memRead a m = .ok v ∧ ∀ b, b ≠ a → memRead b m = memRead b s.mem)

/-- An image of at most `C` bytes loads at address 0, sequentially; cells past it keep 0 and nothing but Memory changes
(70_reset_and_hazards.md R144, R140; the spec's decision D13, log 10). -/
def Obligations.BootLoadsImageFromAddressZero : Prop :=
  ∀ image : List Byte, image.length ≤ Config.memCapacity →
    ∃ m : Memory, boot image = .loaded { State.reset with mem := m } ∧ m.wf = true ∧
      ∀ k, k < Config.memCapacity → memRead k m = .ok (image.getD k 0)

/-- An image longer than `C` bytes fails at its write to `C`; the machine stays in `Ready` and is not run
(70_reset_and_hazards.md R144, R145; the spec's decision D13, log 10). -/
def Obligations.BootRefusesImageTooLong : Prop :=
  ∀ image : List Byte, Config.memCapacity < image.length →
    (∃ m : Memory, boot image =
      .failed (.memoryFault (.outOfBounds Config.memCapacity)) { State.reset with mem := m }) ∧
    ∀ n, runImage image n = .error (.memoryFault (.outOfBounds Config.memCapacity))

/-- Loader writes, failed ones too, keep the invariant and the engine state (10_state.md R33, 70_reset_and_hazards.md R145). The
port is the spec's decision D13 (log 10), and the invariant rests on D5, D6, D8 and D20 (logs 3, 4, 6, 12). -/
def Obligations.LoaderKeepsInvariant : Prop :=
  ∀ (pairs : List Host.Cell) (s t : State), s.Inv →
    (loadPairs pairs s = .loaded t ∨ ∃ why, loadPairs pairs s = .failed why t) →
    t.Inv ∧ t.engine = s.engine

/-- Any image of at most `C` bytes may be loaded and run, whatever its bytes are: it loads, any number of steps of its run
can be driven, what is wrong with it shows only as a fault record in `Faulted`, and from `floor(C/2) + 1` steps on the run
has ended (70_reset_and_hazards.md R147; the length of the run is derived in 40_engine_cycle.md R89). The loader port, the
entry point 0 and the output port that never stalls are the spec's decisions D13, D5, D14 (logs 10, 3, 11). -/
def Obligations.AnyImageMayBeLoadedAndRun : Prop :=
  ∀ (image : List Byte) (n : Nat), image.length ≤ Config.memCapacity →
    ∃ u, runImage image n = .ok u ∧ (u.engine = .faulted ↔ u.fault.isSome = true) ∧
      (Config.memCapacity / 2 + 1 ≤ n → u.Ended)

/-! ## Memory -/

/-- Every access checks its address against `[0, C)`: inside, a read answers the cell and a write is done; outside,
both fail, so no address is reduced modulo `C` (20_memory.md R38). -/
def Obligations.MemoryAccessIsBoundsChecked : Prop :=
  ∀ (a : Nat) (v : Byte) (m : Memory),
    (a < Config.memCapacity → (∃ b, memRead a m = .ok b) ∧ ∃ m', memWrite a v m = .ok m') ∧
    (Config.memCapacity ≤ a →
      (∃ r, memRead a m = .error r ∧ r.kind = .outOfBounds) ∧ ∃ r, memWrite a v m = .error r ∧ r.kind = .outOfBounds)

/-- A read returns the last write to its cell, and a write leaves every other address alone (20_memory.md R40, R48). -/
def Obligations.MemoryReadReturnsLastWrite : Prop :=
  ∀ (a : Nat) (v : Byte) (m m' : Memory), m.wf = true → memWrite a v m = .ok m' →
    memRead a m' = .ok v ∧ ∀ b, b ≠ a → memRead b m' = memRead b m

/-! ## Register file and ALU -/

/-- `set` stores `v mod 2^W` for any natural `v`, and a `get` that follows returns it; 300 stores 44 (10_state.md R19). -/
def Obligations.RegisterSetWrapsAndReadsBack : Prop :=
  (∀ (i v : Nat) (s : State), i < Config.regCount →
    ∃ t w, regSet i v s = .ok t ∧ regGet i t = .ok w ∧ w.toNat = v % 2 ^ Config.regWidth) ∧
  ∀ (i : Nat) (s : State), i < Config.regCount → ∃ t, regSet i 300 s = .ok t ∧ regGet i t = .ok 44

/-- A register write changes its register and nothing else: no register is an alias of another (10_state.md R15, R21). -/
def Obligations.RegisterSetLeavesTheOthers : Prop :=
  ∀ (i v : Nat) (s t : State), regSet i v s = .ok t →
    (∀ j, j ≠ i → regGet j t = regGet j s) ∧ t = { s with regs := t.regs }

/-- A register access with an index of `R` or more fails and reads or writes nothing; the register file answers for
every index below `R` (10_state.md R20). The index in the record is the spec's decision D8 (log 6). -/
def Obligations.RegisterIndexIsChecked : Prop :=
  ∀ (i v : Nat) (s : State),
    (i < Config.regCount → (∃ w, regGet i s = .ok w) ∧ ∃ t, regSet i v s = .ok t) ∧
    (Config.regCount ≤ i →
      regGet i s = .error (.invalidRegister i) ∧ regSet i v s = .error (.invalidRegister i))

/-- Fixed-width operand dispatch: the operands are the two registers read as unsigned numbers, the exact product is
truncated to `W` bits by the register-file write, and no other register changes (42_alu.md R98). -/
def Obligations.AluResultIsWrappedToRegisterWidth : Prop :=
  ∀ (d src : Nat) (x y : Word) (s : State), regGet d s = .ok x → regGet src s = .ok y →
    ∃ t w, aluApply .mul d src s = .ok t ∧ regGet d t = .ok w ∧
      w.toNat = x.toNat * y.toNat % 2 ^ Config.regWidth ∧ ∀ j, j ≠ d → regGet j t = regGet j s

/-! ## The execute steps: what each instruction does -/

/-- LDI with an existing register answers a next state: its register holds the literal, `pc` has advanced by 3, and the
rest of the state is as before (41_ldi.md R91, R93). -/
def Obligations.LdiWritesTheLiteral : Prop :=
  ∀ (a b : Nat) (s : State) (ha : a < Config.regCount),
    exec (.ldi a b) s =
      .next { s with regs := s.regs.set a (BitVec.ofNat Config.regWidth b) ha, pc := s.pc + 3 }

/-- MUL with existing registers answers a next state: the destination holds the product modulo `2^W` of the two
registers read before the write (also when they are one register), `pc` has advanced by 3, and the rest of the state is
as before (42_alu.md R101, R102, R103). -/
def Obligations.MulWritesTheWrappedProduct : Prop :=
  ∀ (a b : Nat) (s : State) (ha : a < Config.regCount) (hb : b < Config.regCount),
    exec (.mul a b) s =
      .next { s with
        regs := s.regs.set a (BitVec.ofNat Config.regWidth (s.regs[a].toNat * s.regs[b].toNat)) ha, pc := s.pc + 3 }

/-- PRN with an existing register answers a next state in which only `pc` and the output sequence changed: the value of
its register is the new last event (43_prn.md R112). -/
def Obligations.PrnChangesOnlyPcAndOutput : Prop :=
  ∀ (a : Nat) (s : State) (ha : a < Config.regCount),
    exec (.prn a) s = .next { s with output := s.output ++ [s.regs[a]], pc := s.pc + 2 }

/-- HLT answers a next state, in every state: the engine is `Halted` and everything else, `pc` among it, is as before
(44_hlt.md R113, R115). -/
def Obligations.HltOnlyHalts : Prop :=
  ∀ s : State, exec .hlt s = .next { s with engine := .halted }

/-- LDI, MUL and PRN raise `InvalidRegister` when they use an index of `R` or more, and only when they execute: the same
instructions decode (60_exceptions.md R119). -/
def Obligations.BadRegisterIndexFaultsAtExecute : Prop :=
  ∀ (i : Instr) (s : State), ¬ RegistersExist i →
    (∃ t r, exec i s = .next t ∧ t.engine = .faulted ∧ t.fault = some r ∧ r.kind = .invalidRegister) ∧
    (i.wf = true → decode (encode i) = .ok (i, []))

/-- Raising a fault sets `state` and the record, and does nothing else (60_exceptions.md R121). -/
def Obligations.RaisingAFaultDoesNothingElse : Prop :=
  ∀ (r : FaultRecord) (s : State), raiseFault r s = .next { s with engine := .faulted, fault := some r }

/-- The frame of the register-writing instructions, LDI and MUL, whenever they answer a next state: every register but
the destination `a`, every byte of Memory, the latches and the output are unchanged, and the engine and the fault record
are either unchanged or those of a fault that changed no register and no `pc` (41_ldi.md R93, 42_alu.md R103,
20_memory.md R43, 60_exceptions.md R121). -/
def Obligations.LdiAndMulFrame : Prop :=
  ∀ (a b : Nat) (s t : State), (exec (.ldi a b) s = .next t ∨ exec (.mul a b) s = .next t) →
    (∀ j, j ≠ a → regGet j t = regGet j s) ∧ (∀ p, memRead p t.mem = memRead p s.mem) ∧
    t.ir = s.ir ∧ t.opa = s.opa ∧ t.opb = s.opb ∧ t.output = s.output ∧
    ((t.engine = s.engine ∧ t.fault = s.fault) ∨
      (t.engine = .faulted ∧ t.fault.isSome = true ∧ t.regs = s.regs ∧ t.pc = s.pc))

/-- The frame of the instructions that write no register, PRN and HLT, whenever they answer a next state: every register,
every byte of Memory and the latches are unchanged; HLT leaves `pc`, the output and the record too, and PRN leaves engine
and record unless it faults, and then `pc` and the output (43_prn.md R112, 44_hlt.md R113, R115, 60_exceptions.md R121). -/
def Obligations.PrnAndHltFrame : Prop :=
  ∀ (a : Nat) (s t : State),
    ((exec (.prn a) s = .next t ∨ exec .hlt s = .next t) →
      (∀ j, regGet j t = regGet j s) ∧ (∀ p, memRead p t.mem = memRead p s.mem) ∧
      t.ir = s.ir ∧ t.opa = s.opa ∧ t.opb = s.opb) ∧
    (exec .hlt s = .next t → t.pc = s.pc ∧ t.output = s.output ∧ t.fault = s.fault) ∧
    (exec (.prn a) s = .next t →
      (t.engine = s.engine ∧ t.fault = s.fault) ∨
        (t.engine = .faulted ∧ t.fault.isSome = true ∧ t.output = s.output ∧ t.pc = s.pc))

/-! ## The cycle -/

/-- When the bytes at `pc` decode, a step executes that instruction, in the state with the latches it loads; the step
adds nothing else around `exec`, which does its own PC update (40_engine_cycle.md R73, R76, R80, R81). -/
def Obligations.StepRunsTheDecodedInstruction : Prop :=
  ∀ (s : State) (i : Instr) (rest : List Byte), s.Active →
    decode (codeFrom s.mem s.pc.toNat) = .ok (i, rest) →
    i.wf = true ∧ step s = exec i (s.latched i)

/-- A cycle that completes advances `pc` by 3 for LDI and MUL and by 2 for PRN, and leaves it for HLT; as numbers, so
nothing wraps (40_engine_cycle.md R83). -/
def Obligations.CompletedCycleAdvancesPc : Prop :=
  ∀ (s : State) (i : Instr) (rest : List Byte), s.Active →
    decode (codeFrom s.mem s.pc.toNat) = .ok (i, rest) → RegistersExist i →
    ∃ t, step s = .next t ∧ t.engine ≠ .faulted ∧ t.fault = s.fault ∧ t.pc.toNat = s.pc.toNat + pcAdvance i

/-- LDI as a whole cycle, in any active state: the register named by its own operand byte holds its literal
(41_ldi.md R91, R93; 40_engine_cycle.md R80). -/
def Obligations.LdiCycle : Prop :=
  ∀ (s : State) (a b : Byte) (rest : List Byte), s.Active →
    codeFrom s.mem s.pc.toNat = 0x82 :: a :: b :: rest → a.toNat < Config.regCount →
    ∃ t w, step s = .next t ∧ regGet a.toNat t = .ok w ∧ w.toNat = b.toNat % 2 ^ Config.regWidth ∧
      (∀ j, j ≠ a.toNat → regGet j t = regGet j s) ∧
      t.pc.toNat = s.pc.toNat + 3 ∧ t.engine = .running ∧ t.output = s.output ∧ t.mem = s.mem

/-- MUL as a whole cycle, in any active state: the wrapped product is in the destination, the source keeps its value
when it is another register, and `pc` has advanced by 3 (42_alu.md R101, R103, R106). -/
def Obligations.MulCycle : Prop :=
  ∀ (s : State) (a b : Byte) (x y : Word) (rest : List Byte), s.Active →
    codeFrom s.mem s.pc.toNat = 0xA2 :: a :: b :: rest →
    regGet a.toNat s = .ok x → regGet b.toNat s = .ok y →
    ∃ t w, step s = .next t ∧ regGet a.toNat t = .ok w ∧ w.toNat = x.toNat * y.toNat % 2 ^ Config.regWidth ∧
      (a ≠ b → regGet b.toNat t = .ok y) ∧ (∀ j, j ≠ a.toNat → regGet j t = regGet j s) ∧
      t.pc.toNat = s.pc.toNat + 3 ∧ t.engine = .running ∧ t.output = s.output ∧ t.mem = s.mem

/-- PRN as a whole cycle, in any active state and whatever an earlier cycle left in the latches: it emits the register
named by its own operand byte (43_prn.md R107, R108, the spec's decision D7; log 5). -/
def Obligations.PrnCycleUsesItsOwnOperand : Prop :=
  ∀ (s : State) (a : Byte) (x : Word) (rest : List Byte), s.Active →
    codeFrom s.mem s.pc.toNat = 0x47 :: a :: rest → regGet a.toNat s = .ok x →
    ∃ t, step s = .next t ∧ t.output = s.output ++ [x] ∧ t.regs = s.regs ∧ t.mem = s.mem ∧
      t.pc.toNat = s.pc.toNat + 2 ∧ t.engine = .running

/-- HLT at any point, also in the last cell, halts with `pc` at its opcode byte, and from there on nothing ever changes
again (44_hlt.md R114, R115). -/
def Obligations.HltHaltsForGood : Prop :=
  ∀ s : State, s.Active → s.pc.toNat < Config.memCapacity → s.codeByte 0 = 0x01 →
    ∃ t, step s = .next t ∧ t.engine = .halted ∧
      t.regs = s.regs ∧ t.mem = s.mem ∧ t.pc = s.pc ∧ t.output = s.output ∧
      step t = .fault .haltedHasNoStep ∧ ∀ n, drive n t = t

/-- A fresh machine that runs `LDI i v`, for every valid index and every byte, ends the cycle with `x[i] = v` and
`pc = 3` (41_ldi.md R94). -/
def Obligations.LdiFromAFreshMachine : Prop :=
  ∀ (i v : Byte), i.toNat < Config.regCount →
    ∃ s t w, boot [0x82, i, v] = .loaded s ∧ step s = .next t ∧
      regGet i.toNat t = .ok w ∧ w.toNat = v.toNat ∧ t.pc = 3

/-! ## Faults -/

/-- An opcode byte outside the table raises `UnknownOpcode` with the byte recorded, not a halt, and no operand byte is read
(30_encoding.md R64, 60_exceptions.md R120, R121). The equation also says what the model chose: `pc` stays at the faulting
byte (the spec's decision D6, log 4), and after the fault `ir` holds the byte and `opa` and `opb` their old values (read
from the order of R76's pseudocode, DEDUCED, log 12). -/
def Obligations.UnknownOpcodeIsRecorded : Prop :=
  ∀ s : State, s.Active → s.pc.toNat < Config.memCapacity →
    s.codeByte 0 ≠ 0x01 → s.codeByte 0 ≠ 0x47 → s.codeByte 0 ≠ 0x82 → s.codeByte 0 ≠ 0xA2 →
    step s = .next { s with
      ir := s.codeByte 0, engine := .faulted, fault := some (.unknownOpcode (s.codeByte 0)) }

/-- A step raises `OutOfBounds` exactly when its fetch, or an operand fetch its instruction needs, is outside `[0, C)`
(60_exceptions.md R118). The last clause reads the recorded address, which is itself outside, never a wrapped one: that
the record holds the failing address is the spec's decision D8 (log 6). -/
def Obligations.OutOfBoundsExactlyWhenAccessIsOutside : Prop :=
  ∀ s : State, s.Active →
    ((∃ t a, step s = .next t ∧ t.engine = .faulted ∧ t.fault = some (.outOfBounds a)) ↔
      Config.memCapacity ≤ s.pc.toNat ∨
      (s.codeByte 0 ∈ [(0x47 : Byte), 0x82, 0xA2] ∧ Config.memCapacity ≤ s.pc.toNat + 1) ∨
      (s.codeByte 0 ∈ [(0x82 : Byte), 0xA2] ∧ Config.memCapacity ≤ s.pc.toNat + 2)) ∧
    ∀ t a, step s = .next t → t.engine = .faulted → t.fault = some (.outOfBounds a) → Config.memCapacity ≤ a

/-- The checks of a cycle in the order of 60_exceptions.md R124: the first that fails is the one recorded, with Memory,
registers, `pc` and output as they were. The order and the infos are the spec's decisions D9, D8 and D6 (logs 4, 6, 7). -/
def Obligations.FirstFailingCheckIsReported : Prop :=
  ∀ s : State, s.Active →
    (Config.memCapacity ≤ s.pc.toNat → s.StepRaises (.outOfBounds s.pc.toNat)) ∧
    (s.pc.toNat < Config.memCapacity → s.codeByte 0 ∉ [(0x01 : Byte), 0x47, 0x82, 0xA2] →
      s.StepRaises (.unknownOpcode (s.codeByte 0))) ∧
    (s.pc.toNat < Config.memCapacity → s.codeByte 0 ∈ [(0x47 : Byte), 0x82, 0xA2] →
      Config.memCapacity ≤ s.pc.toNat + 1 → s.StepRaises (.outOfBounds (s.pc.toNat + 1))) ∧
    (s.pc.toNat + 1 < Config.memCapacity → s.codeByte 0 ∈ [(0x82 : Byte), 0xA2] →
      Config.memCapacity ≤ s.pc.toNat + 2 → s.StepRaises (.outOfBounds (s.pc.toNat + 2))) ∧
    (s.pc.toNat + 1 < Config.memCapacity → s.codeByte 0 = 0x47 →
      Config.regCount ≤ (s.codeByte 1).toNat → s.StepRaises (.invalidRegister (s.codeByte 1).toNat)) ∧
    (s.pc.toNat + 2 < Config.memCapacity → s.codeByte 0 ∈ [(0x82 : Byte), 0xA2] →
      Config.regCount ≤ (s.codeByte 1).toNat → s.StepRaises (.invalidRegister (s.codeByte 1).toNat)) ∧
    (s.pc.toNat + 2 < Config.memCapacity → s.codeByte 0 = 0xA2 →
      (s.codeByte 1).toNat < Config.regCount → Config.regCount ≤ (s.codeByte 2).toNat →
      s.StepRaises (.invalidRegister (s.codeByte 2).toNat))

/-- Faults are precise: a step that ends in `Faulted` leaves Memory, the register file and the output exactly as they
were, and `pc` at the faulting instruction (60_exceptions.md R122; the `pc` is the spec's decision D6, log 4). -/
def Obligations.FaultsArePrecise : Prop :=
  ∀ s t : State, step s = .next t → t.engine = .faulted →
    t.fault.isSome = true ∧ t.mem = s.mem ∧ t.regs = s.regs ∧ t.output = s.output ∧ t.pc = s.pc

/-- The first fault ends the run: no step exists after it, so no second fault happens and the record is never
overwritten (60_exceptions.md R125). -/
def Obligations.FirstFaultEndsTheRun : Prop :=
  ∀ s t : State, step s = .next t → t.engine = .faulted →
    (∃ r, t.fault = some r) ∧ step t = .fault .faultedHasNoStep ∧ ∀ n, drive n t = t

/-- No step raises `UnsupportedOperation`: the engine requests only MUL of the ALU (42_alu.md R104, derived there; the
spec's decision D22, log 16). -/
def Obligations.UnsupportedOperationIsUnreachable : Prop :=
  ∀ (s t : State) (op : AluOp), step s = .next t → s.fault ≠ some (.unsupportedOperation op) →
    t.fault ≠ some (.unsupportedOperation op)

/-! ## The whole machine -/

/-- A step exists exactly in `Ready` and `Running`, and there it always answers a next state; the model's answers in the
two terminal states are the stuck states of log 9 (40_engine_cycle.md R73, 70_reset_and_hazards.md R155; the spec's
decisions D12, D21). -/
def Obligations.StepExistsExactlyWhenActive : Prop :=
  ∀ s : State, (s.Active ↔ ∃ t, step s = .next t) ∧
    (s.engine = .halted ↔ step s = .fault .haltedHasNoStep) ∧
    (s.engine = .faulted ↔ step s = .fault .faultedHasNoStep)

/-- The engine starts in `Ready`, and its transitions are those of 40_engine_cycle.md R74 and no others: a cycle goes to
`Running` exactly when it completes an LDI, MUL or PRN, to `Halted` exactly when its bytes at `pc` are HLT, and to
`Faulted` in every other case, when they are no instruction or name a register that does not exist; `Halted` and
`Faulted` have no transition. A first step goes from `Ready` through `Running` to its end state at once, also to `Halted`
or `Faulted`, which the table does not list: that is the spec's decision D12 (R75; conflict C8; logs 9 and 24). -/
def Obligations.EngineTransitions : Prop :=
  State.reset.engine = .ready ∧
  (∀ s t : State, step s = .next t → s.Active ∧
    ((t.engine = .running ∧ t.fault = s.fault ∧ s.codeByte 0 ∈ [(0x47 : Byte), 0x82, 0xA2] ∧
        ∃ i rest, decode (codeFrom s.mem s.pc.toNat) = .ok (i, rest) ∧ i ≠ .hlt ∧ RegistersExist i) ∨
      (t.engine = .halted ∧ t.fault = s.fault ∧ s.codeByte 0 = 0x01 ∧
        ∃ rest, decode (codeFrom s.mem s.pc.toNat) = .ok (.hlt, rest)) ∨
      (t.engine = .faulted ∧ (∃ r, t.fault = some r) ∧
        ∀ i rest, decode (codeFrom s.mem s.pc.toNat) = .ok (i, rest) → ¬ RegistersExist i))) ∧
  ∀ s t : State, s.Ended → step s ≠ .next t

/-- HLT is the only way into `Halted`, and nothing leaves `Halted`: no step, and no loader write (44_hlt.md R116). -/
def Obligations.OnlyHltEntersHaltedAndNothingLeaves : Prop :=
  (∀ s t : State, step s = .next t → t.engine = .halted →
    s.pc.toNat < Config.memCapacity ∧ s.codeByte 0 = 0x01) ∧
  ∀ (s : State) (a : Nat) (v : Byte), s.engine = .halted →
    (∀ n, drive n s = s) ∧ loaderWrite a v s = .failed .portClosed s

/-- The register file is mutated only by LDI and MUL, and a cycle writes at most one register, the one its operand a
names (10_state.md R21). -/
def Obligations.RegistersMutatedOnlyByLdiAndMul : Prop :=
  ∀ s t : State, step s = .next t → t.regs ≠ s.regs →
    s.codeByte 0 ∈ [(0x82 : Byte), 0xA2] ∧
    ∀ j, j ≠ (s.codeByte 1).toNat → regGet j t = regGet j s

/-- Exactly one output event per PRN cycle that completes, none otherwise (43_prn.md R110, derived there). -/
def Obligations.OneEventPerCompletedPrn : Prop :=
  ∀ s t : State, step s = .next t →
    (t.engine = .running ∧ s.codeByte 0 = 0x47 ∧
      ∃ w, regGet (s.codeByte 1).toNat s = .ok w ∧ t.output = s.output ++ [w]) ∨
    (¬ (t.engine = .running ∧ s.codeByte 0 = 0x47) ∧ t.output = s.output)

/-- During a run, however long, no cell of Memory changes, and what was emitted stays emitted
(20_memory.md R43, 43_prn.md R110, derived there; the spec's decision D25). -/
def Obligations.RunKeepsMemoryAndExtendsOutput : Prop :=
  ∀ (n : Nat) (s : State),
    (∀ a, memRead a (drive n s).mem = memRead a s.mem) ∧ ∃ later, (drive n s).output = s.output ++ later

/-- `pc` stays in `[0, C]`, only grows, and never wraps (10_state.md R23, derived there; 40_engine_cycle.md R84). -/
def Obligations.PcOnlyGrowsAndStaysInRange : Prop :=
  ∀ (n : Nat) (s : State), s.pc.toNat ≤ Config.memCapacity →
    s.pc.toNat ≤ (drive n s).pc.toNat ∧ (drive n s).pc.toNat ≤ Config.memCapacity

/-- Every step keeps the invariant: canonical Memory, `pc` in `[0, C]`, a fault record exactly in `Faulted` and explained by
the cells at `pc`, `Halted` only at an HLT byte, `Ready` only with everything but Memory at reset (10_state.md R23, R29,
R30; 44_hlt.md R115, R116; 60_exceptions.md R122; 70_reset_and_hazards.md R140). Choices in it: the `pc` after a fault is
the spec's decision D6 (log 4), the infos of OutOfBounds and InvalidRegister are D8 (log 6), the reset `pc` is D5 (log 3)
and the reset latches are D20 (log 12). -/
def Obligations.StepKeepsInvariant : Prop :=
  ∀ s t : State, s.Inv → step s = .next t → t.Inv

/-- Every run ends: from any state with `pc` in range, within `(C - pc) / 2 + 1` steps; a freshly loaded machine within
`floor(C/2) + 1 = 129` (40_engine_cycle.md R89, derived there; 70_reset_and_hazards.md R148). It relies on the output port
never stalling, the spec's decision D14 (log 11). -/
def Obligations.EveryRunEndsWithinTheBound : Prop :=
  (∀ (s : State) (n : Nat), s.pc.toNat ≤ Config.memCapacity →
    (Config.memCapacity - s.pc.toNat) / 2 + 1 ≤ n → (drive n s).Ended) ∧
  ∀ (image : List Byte) (s : State), boot image = .loaded s →
    (drive (Config.memCapacity / 2 + 1) s).Ended

/-- The hidden latches never show: two machines that differ at most in `ir`, `opa` and `opb` stay so for any number of
steps, and everything the embedder and the output collaborator get is the same (10_state.md R25, R36,
70_reset_and_hazards.md R152; the spec's decision D7, logs 5 and 12). -/
def Obligations.HiddenLatchesAreNeverObserved : Prop :=
  ∀ (n : Nat) (s t : State), s.SameButLatches t →
    (drive n s).SameButLatches (drive n t) ∧
    observe (drive n s) = observe (drive n t) ∧ (drive n s).output = (drive n t).output ∧
    runResult (drive n s) = runResult (drive n t)
end

