-- ==== Sys2Proof/Laws/Decode.lean ====
section
/-! SUPPORT. The opcode table, read both ways. -/

namespace Sys2Proof

theorem lookup_rowOf (op : Op) : lookup (rowOf op).opcode = some (rowOf op) := by cases op <;> rfl

@[simp] theorem rowOf_op (op : Op) : (rowOf op).op = op := by cases op <;> rfl

/-- A byte the table holds is the opcode of one of the four operations, and its row is that operation's. -/
theorem lookup_eq_some {b : Byte} {row : OpcodeRow} (h : lookup b = some row) :
    b = (rowOf row.op).opcode ∧ row = rowOf row.op := by
  have hmem : row ∈ opcodeTable := List.mem_of_find?_eq_some h
  have hb : (row.opcode == b) = true := List.find?_some (p := fun r : OpcodeRow => r.opcode == b) h
  have hrow : row = rowOf row.op := by
    simp only [opcodeTable, List.mem_cons, List.not_mem_nil, or_false] at hmem
    rcases hmem with rfl | rfl | rfl | rfl <;> rfl
  exact ⟨by rw [← hrow]; exact (beq_iff_eq.1 hb).symm, hrow⟩

theorem operandCount_le (op : Op) : (rowOf op).operandCount ≤ Config.maxOperands := by cases op <;> decide

@[simp] theorem operandByte_toNat (b : Byte) : operandByte b.toNat = b := by simp [operandByte]

@[simp] theorem Op.withOperands_op (op : Op) (a b : Byte) : (op.withOperands a b).op = op := by cases op <;> rfl

/-- What a cycle decodes always has an encoding. -/
@[simp] theorem Op.withOperands_wf (op : Op) (a b : Byte) : (op.withOperands a b).wf = true := by
  cases op <;> simp [Op.withOperands, Instr.wf, operandFits, a.isLt, b.isLt]

end Sys2Proof
end

