-- ==== Sys2Proof/Laws/Memory.lean ====
section
/-! SUPPORT. Memory: every operation keeps the canonical form, and a read after a write. -/

namespace Sys2Proof.Machine

theorem Memory.wf_cons (c : Host.Cell) (m : Memory) :
    Memory.wf (c :: m) = true ↔
      c.1 < Config.memCapacity ∧ c.2 ≠ 0 ∧ (∀ d ∈ m, c.1 < d.1) ∧ Memory.wf m = true := by
  simp [Memory.wf, and_assoc]

/-- An address below every listed one reads as the reset contents. -/
theorem Memory.cell_below {m : Memory} {a : Nat} (h : ∀ d ∈ m, a < d.1) : m.cell a = 0 := by
  induction m with
  | nil => rfl
  | cons c m ih =>
    have hne : a ≠ c.1 := (h c (by simp)).ne
    simp only [Memory.cell, if_neg hne]
    exact ih fun d hd => h d (by simp [hd])

/-- A store lists no address but its own and those listed before. -/
theorem Memory.mem_store {m : Memory} {a : Nat} {v : Byte} {d : Host.Cell} (h : d ∈ m.store a v) :
    d = (a, v) ∨ d ∈ m := by
  induction m with
  | nil =>
    simp only [Memory.store] at h
    split at h <;> simp_all
  | cons c m ih =>
    simp only [Memory.store] at h
    split_ifs at h <;> simp only [List.mem_cons] at h ⊢ <;> tauto

/-- A store keeps the canonical form. -/
theorem Memory.wf_store {m : Memory} {a : Nat} {v : Byte} (ha : a < Config.memCapacity) (h : m.wf = true) :
    (m.store a v).wf = true := by
  induction m with
  | nil =>
    simp only [Memory.store]
    split
    · rfl
    · next hv => exact (Memory.wf_cons _ _).2 ⟨ha, hv, by simp, rfl⟩
  | cons c m ih =>
    obtain ⟨hc, hc0, hlt, hm⟩ := (Memory.wf_cons c m).1 h
    simp only [Memory.store]
    split_ifs with h1 h2 h3 h4
    · exact h
    · refine (Memory.wf_cons _ _).2 ⟨ha, h2, fun d hd => ?_, h⟩
      rcases List.mem_cons.1 hd with rfl | hd
      · exact h1
      · exact h1.trans (hlt d hd)
    · exact hm
    · exact (Memory.wf_cons _ _).2 ⟨ha, h4, fun d hd => h3 ▸ hlt d hd, hm⟩
    · refine (Memory.wf_cons _ _).2 ⟨hc, hc0, fun d hd => ?_, ih hm⟩
      rcases Memory.mem_store hd with rfl | hd
      · exact Nat.lt_of_le_of_ne (Nat.le_of_not_lt h1) fun e => h3 e.symm
      · exact hlt d hd

/-- Reading a cell after a store: the stored byte at its address, the old one everywhere else. -/
theorem Memory.cell_store {m : Memory} (h : m.wf = true) (a b : Nat) (v : Byte) :
    (m.store a v).cell b = if b = a then v else m.cell b := by
  induction m with
  | nil =>
    simp only [Memory.store]
    split_ifs <;> simp_all [Memory.cell]
  | cons c m ih =>
    obtain ⟨-, -, hlt, hm⟩ := (Memory.wf_cons c m).1 h
    have low : ∀ x, x ≤ c.1 → Memory.cell m x = 0 := fun x hx =>
      Memory.cell_below fun d hd => lt_of_le_of_lt hx (hlt d hd)
    rcases Nat.lt_trichotomy a c.1 with hac | hac | hac
    · by_cases hv : v = 0#8
      · by_cases hb : b = a
        · simp [Memory.store, Memory.cell, hac, hac.ne, hv, hb, low a hac.le]
        · simp [Memory.store, hac, hv, hb]
      · simp [Memory.store, Memory.cell, hac, hv]
    · subst hac
      by_cases hv : v = 0#8
      · by_cases hb : b = c.1
        · simp [Memory.store, hv, hb, low c.1 le_rfl]
        · simp [Memory.store, Memory.cell, hv, hb]
      · by_cases hb : b = c.1 <;> simp [Memory.store, Memory.cell, hv, hb]
    · by_cases hb : b = c.1
      · simp [Memory.store, Memory.cell, hac.not_gt, hac.ne', hb, hac.ne]
      · simp [Memory.store, Memory.cell, hac.not_gt, hac.ne', hb, ih hm]

theorem memRead_of_lt {a : Nat} (h : a < Config.memCapacity) (m : Memory) : memRead a m = .ok (m.cell a) :=
  if_pos h

theorem memRead_of_le {a : Nat} (h : Config.memCapacity ≤ a) (m : Memory) : memRead a m = .error (.outOfBounds a) :=
  if_neg (Nat.not_lt.2 h)

theorem memWrite_of_lt {a : Nat} (h : a < Config.memCapacity) (v : Byte) (m : Memory) :
    memWrite a v m = .ok (m.store a v) :=
  if_pos h

theorem memWrite_of_le {a : Nat} (h : Config.memCapacity ≤ a) (v : Byte) (m : Memory) :
    memWrite a v m = .error (.outOfBounds a) :=
  if_neg (Nat.not_lt.2 h)

/-- The bounds-checked write keeps the canonical form. -/
theorem memWrite_wf {a : Nat} {v : Byte} {m m' : Memory} (h : m.wf = true) (hw : memWrite a v m = .ok m') :
    m'.wf = true := by
  unfold memWrite at hw
  split at hw
  · next ha => cases hw; exact Memory.wf_store ha h
  · cases hw

/-- Laying an instruction word keeps the canonical form. -/
theorem storeBytes_wf {m : Memory} (h : m.wf = true) (p : Nat) (bs : List Byte) : (storeBytes m p bs).wf = true := by
  induction bs generalizing m p with
  | nil => exact h
  | cons b bs ih =>
    refine ih ?_ (p + 1)
    split
    · next hp => exact Memory.wf_store hp h
    · exact h

end Sys2Proof.Machine
end

