-- ==== Sys2Proof/Laws/State.lean ====
section
/-! SUPPORT. One lemma per field per update of State, so that no later proof unfolds a record update. -/

namespace Sys2Proof.Machine

variable (s : State)

@[simp] theorem State.setMem_mem (m : Memory) : (s.setMem m).mem = m := rfl
@[simp] theorem State.setMem_regs (m : Memory) : (s.setMem m).regs = s.regs := rfl
@[simp] theorem State.setMem_pc (m : Memory) : (s.setMem m).pc = s.pc := rfl
@[simp] theorem State.setMem_ir (m : Memory) : (s.setMem m).ir = s.ir := rfl
@[simp] theorem State.setMem_opa (m : Memory) : (s.setMem m).opa = s.opa := rfl
@[simp] theorem State.setMem_opb (m : Memory) : (s.setMem m).opb = s.opb := rfl
@[simp] theorem State.setMem_engine (m : Memory) : (s.setMem m).engine = s.engine := rfl
@[simp] theorem State.setMem_fault (m : Memory) : (s.setMem m).fault = s.fault := rfl
@[simp] theorem State.setMem_output (m : Memory) : (s.setMem m).output = s.output := rfl

@[simp] theorem State.setPc_mem (p : PcWord) : (s.setPc p).mem = s.mem := rfl
@[simp] theorem State.setPc_regs (p : PcWord) : (s.setPc p).regs = s.regs := rfl
@[simp] theorem State.setPc_pc (p : PcWord) : (s.setPc p).pc = p := rfl
@[simp] theorem State.setPc_ir (p : PcWord) : (s.setPc p).ir = s.ir := rfl
@[simp] theorem State.setPc_opa (p : PcWord) : (s.setPc p).opa = s.opa := rfl
@[simp] theorem State.setPc_opb (p : PcWord) : (s.setPc p).opb = s.opb := rfl
@[simp] theorem State.setPc_engine (p : PcWord) : (s.setPc p).engine = s.engine := rfl
@[simp] theorem State.setPc_fault (p : PcWord) : (s.setPc p).fault = s.fault := rfl
@[simp] theorem State.setPc_output (p : PcWord) : (s.setPc p).output = s.output := rfl

@[simp] theorem State.latchIr_mem (b : Byte) : (s.latchIr b).mem = s.mem := rfl
@[simp] theorem State.latchIr_regs (b : Byte) : (s.latchIr b).regs = s.regs := rfl
@[simp] theorem State.latchIr_pc (b : Byte) : (s.latchIr b).pc = s.pc := rfl
@[simp] theorem State.latchIr_ir (b : Byte) : (s.latchIr b).ir = b := rfl
@[simp] theorem State.latchIr_opa (b : Byte) : (s.latchIr b).opa = s.opa := rfl
@[simp] theorem State.latchIr_opb (b : Byte) : (s.latchIr b).opb = s.opb := rfl
@[simp] theorem State.latchIr_engine (b : Byte) : (s.latchIr b).engine = s.engine := rfl
@[simp] theorem State.latchIr_fault (b : Byte) : (s.latchIr b).fault = s.fault := rfl
@[simp] theorem State.latchIr_output (b : Byte) : (s.latchIr b).output = s.output := rfl

@[simp] theorem State.latchOpa_mem (b : Byte) : (s.latchOpa b).mem = s.mem := rfl
@[simp] theorem State.latchOpa_regs (b : Byte) : (s.latchOpa b).regs = s.regs := rfl
@[simp] theorem State.latchOpa_pc (b : Byte) : (s.latchOpa b).pc = s.pc := rfl
@[simp] theorem State.latchOpa_ir (b : Byte) : (s.latchOpa b).ir = s.ir := rfl
@[simp] theorem State.latchOpa_opa (b : Byte) : (s.latchOpa b).opa = b := rfl
@[simp] theorem State.latchOpa_opb (b : Byte) : (s.latchOpa b).opb = s.opb := rfl
@[simp] theorem State.latchOpa_engine (b : Byte) : (s.latchOpa b).engine = s.engine := rfl
@[simp] theorem State.latchOpa_fault (b : Byte) : (s.latchOpa b).fault = s.fault := rfl
@[simp] theorem State.latchOpa_output (b : Byte) : (s.latchOpa b).output = s.output := rfl

@[simp] theorem State.latchOpb_mem (b : Byte) : (s.latchOpb b).mem = s.mem := rfl
@[simp] theorem State.latchOpb_regs (b : Byte) : (s.latchOpb b).regs = s.regs := rfl
@[simp] theorem State.latchOpb_pc (b : Byte) : (s.latchOpb b).pc = s.pc := rfl
@[simp] theorem State.latchOpb_ir (b : Byte) : (s.latchOpb b).ir = s.ir := rfl
@[simp] theorem State.latchOpb_opa (b : Byte) : (s.latchOpb b).opa = s.opa := rfl
@[simp] theorem State.latchOpb_opb (b : Byte) : (s.latchOpb b).opb = b := rfl
@[simp] theorem State.latchOpb_engine (b : Byte) : (s.latchOpb b).engine = s.engine := rfl
@[simp] theorem State.latchOpb_fault (b : Byte) : (s.latchOpb b).fault = s.fault := rfl
@[simp] theorem State.latchOpb_output (b : Byte) : (s.latchOpb b).output = s.output := rfl

@[simp] theorem State.setEngine_mem (e : EngineState) : (s.setEngine e).mem = s.mem := rfl
@[simp] theorem State.setEngine_regs (e : EngineState) : (s.setEngine e).regs = s.regs := rfl
@[simp] theorem State.setEngine_pc (e : EngineState) : (s.setEngine e).pc = s.pc := rfl
@[simp] theorem State.setEngine_ir (e : EngineState) : (s.setEngine e).ir = s.ir := rfl
@[simp] theorem State.setEngine_opa (e : EngineState) : (s.setEngine e).opa = s.opa := rfl
@[simp] theorem State.setEngine_opb (e : EngineState) : (s.setEngine e).opb = s.opb := rfl
@[simp] theorem State.setEngine_engine (e : EngineState) : (s.setEngine e).engine = e := rfl
@[simp] theorem State.setEngine_fault (e : EngineState) : (s.setEngine e).fault = s.fault := rfl
@[simp] theorem State.setEngine_output (e : EngineState) : (s.setEngine e).output = s.output := rfl

@[simp] theorem State.emit_mem (v : Word) : (s.emit v).mem = s.mem := rfl
@[simp] theorem State.emit_regs (v : Word) : (s.emit v).regs = s.regs := rfl
@[simp] theorem State.emit_pc (v : Word) : (s.emit v).pc = s.pc := rfl
@[simp] theorem State.emit_ir (v : Word) : (s.emit v).ir = s.ir := rfl
@[simp] theorem State.emit_opa (v : Word) : (s.emit v).opa = s.opa := rfl
@[simp] theorem State.emit_opb (v : Word) : (s.emit v).opb = s.opb := rfl
@[simp] theorem State.emit_engine (v : Word) : (s.emit v).engine = s.engine := rfl
@[simp] theorem State.emit_fault (v : Word) : (s.emit v).fault = s.fault := rfl
@[simp] theorem State.emit_output (v : Word) : (s.emit v).output = s.output ++ [v] := rfl

@[simp] theorem State.faultWith_mem (r : FaultRecord) : (s.faultWith r).mem = s.mem := rfl
@[simp] theorem State.faultWith_regs (r : FaultRecord) : (s.faultWith r).regs = s.regs := rfl
@[simp] theorem State.faultWith_pc (r : FaultRecord) : (s.faultWith r).pc = s.pc := rfl
@[simp] theorem State.faultWith_ir (r : FaultRecord) : (s.faultWith r).ir = s.ir := rfl
@[simp] theorem State.faultWith_opa (r : FaultRecord) : (s.faultWith r).opa = s.opa := rfl
@[simp] theorem State.faultWith_opb (r : FaultRecord) : (s.faultWith r).opb = s.opb := rfl
@[simp] theorem State.faultWith_engine (r : FaultRecord) : (s.faultWith r).engine = .faulted := rfl
@[simp] theorem State.faultWith_fault (r : FaultRecord) : (s.faultWith r).fault = some r := rfl
@[simp] theorem State.faultWith_output (r : FaultRecord) : (s.faultWith r).output = s.output := rfl

@[simp] theorem State.advancePc_mem (op : Op) : (s.advancePc op).mem = s.mem := rfl
@[simp] theorem State.advancePc_regs (op : Op) : (s.advancePc op).regs = s.regs := rfl
@[simp] theorem State.advancePc_pc (op : Op) : (s.advancePc op).pc = s.pc + BitVec.ofNat Config.pcWidth (1 + (rowOf op).operandCount) := rfl
@[simp] theorem State.advancePc_ir (op : Op) : (s.advancePc op).ir = s.ir := rfl
@[simp] theorem State.advancePc_opa (op : Op) : (s.advancePc op).opa = s.opa := rfl
@[simp] theorem State.advancePc_opb (op : Op) : (s.advancePc op).opb = s.opb := rfl
@[simp] theorem State.advancePc_engine (op : Op) : (s.advancePc op).engine = s.engine := rfl
@[simp] theorem State.advancePc_fault (op : Op) : (s.advancePc op).fault = s.fault := rfl
@[simp] theorem State.advancePc_output (op : Op) : (s.advancePc op).output = s.output := rfl

/-! What the latches leave alone: `latched` writes `ir`, `opa`, `opb` and `engine` only. -/

@[simp] theorem State.latched_mem (i : Instr) : (s.latched i).mem = s.mem := by cases i <;> rfl
@[simp] theorem State.latched_regs (i : Instr) : (s.latched i).regs = s.regs := by cases i <;> rfl
@[simp] theorem State.latched_pc (i : Instr) : (s.latched i).pc = s.pc := by cases i <;> rfl
@[simp] theorem State.latched_fault (i : Instr) : (s.latched i).fault = s.fault := by cases i <;> rfl
@[simp] theorem State.latched_output (i : Instr) : (s.latched i).output = s.output := by cases i <;> rfl
@[simp] theorem State.latched_engine (i : Instr) : (s.latched i).engine = .running := by cases i <;> rfl
@[simp] theorem State.latched_ir (i : Instr) : (s.latched i).ir = (rowOf i.op).opcode := by cases i <;> rfl

end Sys2Proof.Machine
end

