-- ==== Sys2Proof/Laws/Fetch.lean ====
section
/-! SUPPORT. Fetch and operand fetch: everything each can do, said once. -/

namespace Sys2Proof.Machine

theorem fetchOpcode_of_lt {s : State} (h : s.pc.toNat < Config.memCapacity) :
    fetchOpcode s = .ok (s.latchIr (s.mem.cell s.pc.toNat)) := by
  simp only [fetchOpcode, memRead_of_lt h]
  rfl

theorem fetchOpcode_of_le {s : State} (h : Config.memCapacity ≤ s.pc.toNat) :
    fetchOpcode s = .error (.outOfBounds s.pc.toNat) := by
  simp only [fetchOpcode, memRead_of_le h]
  rfl

/-- Operand a is not fetched for an instruction without operands. -/
theorem fetchOpa_none {n : Nat} (h : n < 1) (s : State) : fetchOpa n s = .ok s := if_neg (Nat.not_le.2 h)

theorem fetchOpa_of_lt {n : Nat} {s : State} (hn : 1 ≤ n) (h : s.pc.toNat + 1 < Config.memCapacity) :
    fetchOpa n s = .ok (s.latchOpa (s.mem.cell (s.pc.toNat + 1))) := by
  simp only [fetchOpa, if_pos hn, memRead_of_lt h]
  rfl

theorem fetchOpa_of_le {n : Nat} {s : State} (hn : 1 ≤ n) (h : Config.memCapacity ≤ s.pc.toNat + 1) :
    fetchOpa n s = .error (.outOfBounds (s.pc.toNat + 1)) := by
  simp only [fetchOpa, if_pos hn, memRead_of_le h]
  rfl

/-- Operand b is not fetched for an instruction with fewer than two operands. -/
theorem fetchOpb_none {n : Nat} (h : n < 2) (s : State) : fetchOpb n s = .ok s := if_neg (Nat.not_le.2 h)

theorem fetchOpb_of_lt {n : Nat} {s : State} (hn : 2 ≤ n) (h : s.pc.toNat + 2 < Config.memCapacity) :
    fetchOpb n s = .ok (s.latchOpb (s.mem.cell (s.pc.toNat + 2))) := by
  simp only [fetchOpb, if_pos hn, memRead_of_lt h]
  rfl

theorem fetchOpb_of_le {n : Nat} {s : State} (hn : 2 ≤ n) (h : Config.memCapacity ≤ s.pc.toNat + 2) :
    fetchOpb n s = .error (.outOfBounds (s.pc.toNat + 2)) := by
  simp only [fetchOpb, if_pos hn, memRead_of_le h]
  rfl

/-- The bytes an instruction at `p` is read from begin with the cell at `p`. -/
theorem codeFrom_of_lt {p : Nat} (h : p < Config.memCapacity) (m : Memory) :
    codeFrom m p = m.cell p :: codeFrom m (p + 1) := by
  have hlen : Config.memCapacity - p = (Config.memCapacity - (p + 1)) + 1 := by omega
  simp only [codeFrom, hlen, List.range'_succ, List.map_cons]

theorem codeFrom_of_le {p : Nat} (h : Config.memCapacity ≤ p) (m : Memory) : codeFrom m p = [] := by
  simp [codeFrom, Nat.sub_eq_zero_of_le h]

end Sys2Proof.Machine
end

