-- ==== Sys2Proof/Laws/Registers.lean ====
section
/-! SUPPORT. The register file and the ALU: everything `regGet`, `regSet` and `aluApply` can do, said once. -/

namespace Sys2Proof.Machine

theorem regGet_of_lt {i : Nat} (h : i < Config.regCount) (s : State) : regGet i s = .ok s.regs[i] := dif_pos h

theorem regGet_of_le {i : Nat} (h : Config.regCount ≤ i) (s : State) : regGet i s = .error (.invalidRegister i) :=
  dif_neg (Nat.not_lt.2 h)

theorem regSet_of_lt {i : Nat} (h : i < Config.regCount) (v : Nat) (s : State) :
    regSet i v s = .ok { s with regs := s.regs.set i (truncW v) h } :=
  dif_pos h

theorem regSet_of_le {i : Nat} (h : Config.regCount ≤ i) (v : Nat) (s : State) :
    regSet i v s = .error (.invalidRegister i) :=
  dif_neg (Nat.not_lt.2 h)

/-- If `get` answers, the index exists and the answer is its register. -/
theorem regGet_eq_ok {i : Nat} {s : State} {w : Word} (h : regGet i s = .ok w) :
    ∃ hi : i < Config.regCount, s.regs[i] = w := by
  unfold regGet at h
  split at h
  · next hi => exact ⟨hi, by simpa using h⟩
  · cases h

/-- If `set` answers, the index exists and only its register changed. -/
theorem regSet_eq_ok {i v : Nat} {s t : State} (h : regSet i v s = .ok t) :
    ∃ hi : i < Config.regCount, t = { s with regs := s.regs.set i (truncW v) hi } := by
  unfold regSet at h
  split at h
  · next hi => exact ⟨hi, by simpa using h.symm⟩
  · cases h

/-- The ALU's multiply answers exactly when both indices exist, with the truncated product in the destination. -/
theorem aluApply_of_lt {d src : Nat} (hd : d < Config.regCount) (hs : src < Config.regCount) (s : State) :
    aluApply .mul d src s =
      .ok { s with regs := s.regs.set d (truncW (s.regs[d].toNat * s.regs[src].toNat)) hd } := by
  simp only [aluApply, regGet_of_lt hd, regGet_of_lt hs, regSet_of_lt hd, aluResult]
  rfl

theorem aluApply_bad_dest {d : Nat} (hd : Config.regCount ≤ d) (src : Nat) (s : State) :
    aluApply .mul d src s = .error (.invalidRegister d) := by
  simp only [aluApply, regGet_of_le hd]
  rfl

theorem aluApply_bad_src {d src : Nat} (hd : d < Config.regCount) (hs : Config.regCount ≤ src) (s : State) :
    aluApply .mul d src s = .error (.invalidRegister src) := by
  simp only [aluApply, regGet_of_lt hd, regGet_of_le hs]
  rfl

end Sys2Proof.Machine
end

