-- ==== Sys2Proof/Laws/Cycle.lean ====
section
/-! SUPPORT. Everything one cycle and one step can do, said once; later proofs cite it and unfold neither. -/

namespace Sys2Proof.Machine

/-- The end of an execute step: the effect and the PC update, or fault entry in the state before the effect. -/
theorem completeCycle_eq (op : Op) (x : Except FaultRecord State) (s : State) :
    (∃ t, x = .ok t ∧ completeCycle op x s = .next (t.advancePc op)) ∨
      ∃ r, x = .error r ∧ completeCycle op x s = .next (s.faultWith r) := by
  cases x with
  | ok t => exact .inl ⟨t, rfl, rfl⟩
  | error r => exact .inr ⟨r, rfl, rfl⟩

/-- The instruction a cycle at `pc` runs when the table's row of its opcode byte is `rowOf op`. -/
def State.fetched (s : State) (op : Op) : Instr :=
  op.withOperands (s.mem.cell (s.pc.toNat + 1)) (s.mem.cell (s.pc.toNat + 2))

/-- Everything one cycle can do: a fetch fault, an unknown opcode, an operand fault, or the execute step of the
instruction at `pc`, in the state with the latches that instruction loads. -/
theorem cycle_cases (s : State) :
    (Config.memCapacity ≤ s.pc.toNat ∧
      cycle s = .next ((s.setEngine .running).faultWith (.outOfBounds s.pc.toNat))) ∨
    (s.pc.toNat < Config.memCapacity ∧ lookup (s.mem.cell s.pc.toNat) = none ∧
      cycle s = .next (((s.setEngine .running).latchIr (s.mem.cell s.pc.toNat)).faultWith
        (.unknownOpcode (s.mem.cell s.pc.toNat)))) ∨
    ∃ op, s.pc.toNat < Config.memCapacity ∧ s.mem.cell s.pc.toNat = (rowOf op).opcode ∧
      ((1 ≤ (rowOf op).operandCount ∧ Config.memCapacity ≤ s.pc.toNat + 1 ∧
          cycle s = .next (((s.setEngine .running).latchIr (rowOf op).opcode).faultWith
            (.outOfBounds (s.pc.toNat + 1)))) ∨
        (2 ≤ (rowOf op).operandCount ∧ s.pc.toNat + 1 < Config.memCapacity ∧ Config.memCapacity ≤ s.pc.toNat + 2 ∧
          cycle s = .next ((((s.setEngine .running).latchIr (rowOf op).opcode).latchOpa
            (s.mem.cell (s.pc.toNat + 1))).faultWith (.outOfBounds (s.pc.toNat + 2)))) ∨
        (s.pc.toNat + (rowOf op).operandCount < Config.memCapacity ∧
          cycle s = exec (s.fetched op) (s.latched (s.fetched op)))) := by
  rcases Nat.lt_or_ge s.pc.toNat Config.memCapacity with hpc | hpc
  · right
    have hf := fetchOpcode_of_lt (s := s.setEngine .running) hpc
    cases hl : lookup (s.mem.cell s.pc.toNat) with
    | none =>
      left
      refine ⟨hpc, rfl, ?_⟩
      simp only [cycle, hf, State.latchIr_ir, State.setEngine_mem, State.setEngine_pc, hl]
      rfl
    | some row =>
      right
      obtain ⟨hb, hrow⟩ := lookup_eq_some hl
      refine ⟨row.op, hpc, hb, ?_⟩
      rw [hrow] at hl
      simp only [cycle, hf, State.latchIr_ir, State.setEngine_mem, State.setEngine_pc, hl]
      rw [hb]
      generalize row.op = op
      rcases Nat.lt_or_ge (s.pc.toNat + 1) Config.memCapacity with h1 | h1 <;>
      rcases Nat.lt_or_ge (s.pc.toNat + 2) Config.memCapacity with h2 | h2 <;>
      cases op <;>
      simp [rowOf, fetchOpa, fetchOpb, memRead, h1, h2, not_lt.2, hpc, Except.map, raiseFault, State.fetched,
        State.latched, Instr.operands, Instr.op, Op.withOperands]
  · left
    have hf := fetchOpcode_of_le (s := s.setEngine .running) hpc
    refine ⟨hpc, ?_⟩
    simp only [cycle, hf]
    rfl

/-- A step exists exactly in `Ready` and `Running`, and there it is the cycle. -/
theorem step_cases (s : State) :
    ((s.engine = .ready ∨ s.engine = .running) ∧ step s = cycle s) ∨
      (s.engine = .halted ∧ step s = .fault .haltedHasNoStep) ∨
      (s.engine = .faulted ∧ step s = .fault .faultedHasNoStep) := by
  unfold step
  cases h : s.engine <;> simp

end Sys2Proof.Machine
end

