-- ==== Sys2Proof/Laws/HostPort.lean ====
section
/-! SUPPORT. The loader port and the driver: everything one loader write and one driven step can do, said once. -/

namespace Sys2Proof.Machine

/-- One loader write: the port is closed, the bounds check fails, or the one cell is stored. -/
theorem loaderWrite_cases (a : Nat) (v : Byte) (s : State) :
    (s.engine ≠ .ready ∧ loaderWrite a v s = .failed .portClosed s) ∨
      (s.engine = .ready ∧ Config.memCapacity ≤ a ∧
        loaderWrite a v s = .failed (.memoryFault (.outOfBounds a)) s) ∨
      (s.engine = .ready ∧ a < Config.memCapacity ∧ loaderWrite a v s = .loaded (s.setMem (s.mem.store a v))) := by
  by_cases h : s.engine = .ready
  · rcases Nat.lt_or_ge a Config.memCapacity with ha | ha
    · exact .inr (.inr ⟨h, ha, by simp [loaderWrite, h, memWrite_of_lt ha]⟩)
    · exact .inr (.inl ⟨h, ha, by simp [loaderWrite, h, memWrite_of_le ha]⟩)
  · exact .inl ⟨h, by simp [loaderWrite, h]⟩

/-- A loader write keeps the canonical form of Memory, whether it is done or fails. -/
theorem loaderWrite_wf {a : Nat} {v : Byte} {s t : State} (h : s.mem.wf = true)
    (hl : loaderWrite a v s = .loaded t ∨ ∃ why, loaderWrite a v s = .failed why t) : t.mem.wf = true := by
  rcases loaderWrite_cases a v s with ⟨-, e⟩ | ⟨-, -, e⟩ | ⟨-, ha, e⟩ <;> rw [e] at hl <;>
    rcases hl with hl | ⟨why, hl⟩ <;> cases hl
  · exact h
  · exact h
  · exact Memory.wf_store ha h

/-- Driving `n + 1` steps is one step and `n` more, or nothing where no step exists. -/
theorem drive_succ (n : Nat) (s : State) :
    (∃ t, step s = .next t ∧ drive (n + 1) s = drive n t) ∨
      ((∀ t, step s ≠ .next t) ∧ drive (n + 1) s = s) := by
  simp only [drive]
  cases step s <;> simp

/-- Driving an ended machine leaves it as it is. -/
theorem drive_ended {s : State} (h : s.Ended) (n : Nat) : drive n s = s := by
  cases n with
  | zero => rfl
  | succ n => rcases h with h | h <;> simp [drive, step, h]

end Sys2Proof.Machine
end

