-- ==== Sys2Proof/Laws/PerInstr.lean ====
section
/-! SUPPORT. One statement for each instruction, as syntax: its encoding has the length the table gives its opcode byte
(30_encoding.md R60), and bits 7:6 of that byte are its operand count (30_encoding.md R61). -/

namespace Sys2Proof.Laws.EncodedLength

def Statement (i : Instr) : Prop :=
  instrLength (rowOf i.op).opcode = some (encode i).length ∧
    (rowOf i.op).opcode.extractLsb' 6 2 = BitVec.ofNat 2 i.operands.length

theorem hlt : Statement .hlt := ⟨rfl, rfl⟩

theorem prn (a : Nat) : Statement (.prn a) := ⟨rfl, by simp [rowOf, Instr.op, Instr.operands]⟩

theorem ldi (a b : Nat) : Statement (.ldi a b) := ⟨rfl, by simp [rowOf, Instr.op, Instr.operands]⟩

theorem mul (a b : Nat) : Statement (.mul a b) := ⟨rfl, by simp [rowOf, Instr.op, Instr.operands]⟩

end Sys2Proof.Laws.EncodedLength
end

