-- ==== Sys2Proof/Tests/Slice0.lean ====
section
/-! SUPPORT. The model's own tests: expected results are taken from spec/95_test_vectors.md (its vector names are given)
and from the rules named; then, for each statement with hypotheses, a state and operands that meet them. -/

namespace Sys2Proof.Tests

open Sys2Proof Sys2Proof.Machine

/-- A running machine at address `p` with the bytes `bs` there and `r` in the first registers. -/
def machine (p : Nat) (bs : List Byte) (r0 r1 : Word) : State :=
  { State.reset with
    engine := .running, pc := BitVec.ofNat 16 p, mem := storeBytes [] p bs, regs := #v[r0, r1, 0, 0, 0, 0, 0, 0] }

/-- The next state, where there is one. -/
def after (r : StepResult) : Option State :=
  match r with
  | .next t => some t
  | .fault _ => none
  | .refused _ => none

/-! ## Configuration and well-formedness -/

theorem test_parameters_meet_constraints :
    1 ≤ Config.memCapacity ∧ 1 ≤ Config.regCount ∧ Config.regCount ≤ 256 ∧ 1 ≤ Config.regWidth ∧
      Config.memCapacity < 2 ^ Config.pcWidth := by decide

theorem test_wf_refuses_prn_index_256 : (Instr.prn 256).wf = false := by decide

theorem test_wf_refuses_ldi_index_256 : (Instr.ldi 256 0).wf = false := by decide

theorem test_wf_refuses_ldi_literal_256 : (Instr.ldi 0 256).wf = false := by decide

theorem test_wf_refuses_mul_dest_256 : (Instr.mul 256 0).wf = false := by decide

theorem test_wf_refuses_mul_src_256 : (Instr.mul 0 256).wf = false := by decide

theorem test_wf_accepts_index_of_no_register : (Instr.ldi 8 1).wf = true := by decide

/-! ## Decoding: words written out from 30_encoding.md R54, R57, R72, and the vectors V-D6 to V-D10 -/

theorem test_decode_hlt : decode [0b00000001] = .ok (.hlt, []) := rfl

theorem test_decode_prn : decode [0b01000111, 0b00000101] = .ok (.prn 5, []) := rfl

theorem test_decode_ldi : decode [0b10000010, 0b00000111, 0b11111111] = .ok (.ldi 7 255, []) := rfl

theorem test_decode_mul : decode [0b10100010, 0b00000010, 0b00000011] = .ok (.mul 2 3, []) := rfl

theorem test_decode_refuses_bytes_outside_the_table :
    lookup 0x00 = none ∧ lookup 0xFF = none ∧ lookup 0xC2 = none ∧ lookup 0xA0 = none ∧ lookup 0x02 = none ∧
      lookup 0x81 = none := by decide

theorem test_decode_refuses_short_ldi : decode [0x82, 0x00] = .error (.missingOperand 0x82) := rfl

theorem test_table_words :
    decodeTableWord 8 0x01 = some .hlt ∧ decodeTableWord 16 0x0547 = some (.prn 5) ∧
      decodeTableWord 24 0x090182 = some (.ldi 1 9) ∧ decodeTableWord 24 0x0100A2 = some (.mul 0 1) ∧
      decodeTableWord 8 0x82 = some (.ldi 0 0) := by decide

/-! ## One step each -/

/-- V-L9: LDI in the last three cells. -/
theorem test_ldi_in_last_cells :
    (after (step (machine 253 [0x82, 0x01, 0x2A] 0 0))).map (fun t => (t.regs, t.pc, t.engine)) =
      some (#v[0, 42, 0, 0, 0, 0, 0, 0], 256, .running) := by decide

/-- V-L5: index 8 faults, `pc` stays. -/
theorem test_ldi_bad_register :
    (after (step (machine 0 [0x82, 0x08, 0x01] 0 0))).map (fun t => (t.fault, t.pc, t.engine)) =
      some (some (.invalidRegister 8), 0, .faulted) := by decide

/-- V-M6: 200 * 2 = 400, 144 modulo 256. -/
theorem test_mul_wraps :
    (after (step (machine 0 [0xA2, 0x00, 0x01] 200 2))).map (fun t => (t.regs, t.pc)) =
      some (#v[144, 2, 0, 0, 0, 0, 0, 0], 3) := by decide

/-- V-M14: the destination is operand a. -/
theorem test_mul_destination_is_operand_a :
    (after (step (machine 0 [0xA2, 0x01, 0x00] 8 9))).map (fun t => t.regs) =
      some #v[8, 72, 0, 0, 0, 0, 0, 0] := by decide

/-- V-P6: PRN uses its own operand, not the latch an earlier instruction left. -/
theorem test_prn_uses_own_operand :
    (after (step { machine 0 [0x47, 0x01] 3 5 with opa := 0 })).map (fun t => (t.output, t.pc)) =
      some ([5], 2) := by decide

/-- V-P5: PRN cut off by the end of Memory emits nothing. -/
theorem test_prn_cut_off :
    (after (step (machine 255 [0x47] 1 0))).map (fun t => (t.fault, t.output, t.pc)) =
      some (some (.outOfBounds 256), [], 255) := by decide

/-- V-H2: HLT in the last cell. -/
theorem test_hlt_in_last_cell :
    (after (step (machine 255 [0x01] 0 0))).map (fun t => (t.engine, t.pc, t.fault)) =
      some (.halted, 255, none) := by decide

/-- V-D5: the empty memory of a fresh machine. -/
theorem test_fresh_machine_faults :
    (after (step State.reset)).map (fun t => (t.fault, t.pc, t.engine)) =
      some (some (.unknownOpcode 0x00), 0, .faulted) := by decide

/-- V-D11: the fetch past the end. -/
theorem test_fetch_past_the_end :
    (after (step (machine 256 [] 0 0))).map (fun t => (t.fault, t.pc)) =
      some (some (.outOfBounds 256), 256) := by decide

/-- V-F2: operand b's bound comes before the register index. -/
theorem test_operand_bound_before_register :
    (after (step (machine 254 [0x82, 0x09] 0 0))).map (fun t => t.fault) = some (some (.outOfBounds 256)) := by decide

/-- V-F3: index a comes before index b. -/
theorem test_index_a_before_index_b :
    (after (step (machine 0 [0xA2, 0x09, 0x08] 0 0))).map (fun t => t.fault) =
      some (some (.invalidRegister 9)) := by decide

/-- 60_exceptions.md R117: the codes. -/
theorem test_fault_codes :
    FaultKind.outOfBounds.code = 0 ∧ FaultKind.invalidRegister.code = 1 ∧ FaultKind.unknownOpcode.code = 2 ∧
      FaultKind.unsupportedOperation.code = 3 := by decide

/-- The word placed by the host's interface is what the next step runs. -/
theorem test_fetch_word_runs_first :
    (after (step (State.reset.withFetchWord 24 0x090182))).map (fun t => (t.regs, t.pc, t.ir)) =
      some (#v[0, 9, 0, 0, 0, 0, 0, 0], 3, 0x82) := by decide

/-- Writing the reset contents removes the entry, so equal memories are equal data. -/
theorem test_store_zero_unlists : Memory.store [(3, 1), (5, 2)] 3 0 = [(5, 2)] := by decide

/-- 30_encoding.md R69: a hex literal, blanks around the comma, and a literal out of range. -/
theorem test_assembler :
    assembleLine ['L', 'D', 'I', ' ', ' ', 'r', '1', ' ', ',', ' ', '0', 'x', 'F', 'f'] = .ok [0x82, 0x01, 0xFF] ∧
      parseLine ['L', 'D', 'I', ' ', 'r', '1', ',', '2', '5', '6'] = .error .badOperand ∧
      parseLine ['h', 'l', 't'] = .error .unknownMnemonic := ⟨rfl, rfl, rfl⟩

/-! ## Witnesses: for each statement with hypotheses, what meets them all. Where a statement has clauses, one for each -/

theorem witness_DecodeOfEncodeIsTheInstruction : (Instr.mul 255 255).wf = true := by decide

theorem witness_DecodedBytesAreTheEncoding : decode [0xA2, 7, 255, 9] = .ok (.mul 7 255, [9]) := rfl

theorem witness_AssemblerReadsWhatIsPrinted : (Instr.ldi 255 255).wf = true := by decide

/-- One for each clause: a line that is read, the number 256, and the hex digits of 0x100. -/
theorem witness_AssemblerYieldsOnlyEncodable :
    parseLine ['P', 'R', 'N', ' ', 'r', '2', '5', '5'] = .ok (.prn 255) ∧ 256 ≤ 256 ∧
      2 < ['1', '0', '0'].length ∧ ∀ c ∈ ['1', '0', '0'], (hexDigit c).isSome = true :=
  ⟨rfl, by decide, by decide, by simp [hexDigit]⟩

theorem witness_ResetMemoryHoldsZero : 255 < Config.memCapacity := by decide

theorem witness_ResetRegistersAndEngine : 7 < Config.regCount := by decide

theorem witness_LoaderPortWritesOneCellInReady :
    ((machine 0 [1] 0 0).mem.wf = true ∧ (machine 0 [1] 0 0).engine ≠ .ready) ∧
      (State.reset.mem.wf = true ∧ State.reset.engine = .ready ∧ Config.memCapacity ≤ 256) ∧
      255 < Config.memCapacity ∧ (254 : Nat) ≠ 255 := by decide

theorem witness_BootLoadsImageFromAddressZero :
    (List.replicate 256 (1 : Byte)).length ≤ Config.memCapacity := Nat.le_of_eq List.length_replicate

theorem witness_BootRefusesImageTooLong :
    Config.memCapacity < (List.replicate 257 (1 : Byte)).length :=
  Nat.lt_of_lt_of_eq (by decide : Config.memCapacity < 257) List.length_replicate.symm

theorem reset_inv : State.reset.Inv := by
  constructor <;> simp [State.reset, Memory.wf, State.setMem]

theorem witness_LoaderKeepsInvariant :
    State.reset.Inv ∧ (∃ t, loadPairs [(255, 1)] State.reset = .loaded t) ∧
      ∃ why t, loadPairs [(256, 1)] State.reset = .failed why t :=
  ⟨reset_inv, ⟨_, rfl⟩, _, _, rfl⟩

theorem witness_AnyImageMayBeLoadedAndRun :
    ([] : List Byte).length ≤ Config.memCapacity ∧ (List.replicate 256 (1 : Byte)).length ≤ Config.memCapacity ∧
      Config.memCapacity / 2 + 1 ≤ 129 :=
  ⟨by decide, Nat.le_of_eq List.length_replicate, by decide⟩

theorem witness_MemoryAccessIsBoundsChecked : 255 < Config.memCapacity ∧ Config.memCapacity ≤ 256 := by decide

theorem witness_MemoryReadReturnsLastWrite :
    Memory.wf [(3, 1), (255, 2)] = true ∧ memWrite 255 0 [(3, 1), (255, 2)] = .ok [(3, 1)] ∧ (3 : Nat) ≠ 255 :=
  ⟨by decide, rfl, by decide⟩

theorem witness_RegisterSetWrapsAndReadsBack : 7 < Config.regCount := by decide

theorem witness_RegisterSetLeavesTheOthers : (∃ t, regSet 7 300 State.reset = .ok t) ∧ (0 : Nat) ≠ 7 :=
  ⟨⟨_, rfl⟩, by decide⟩

theorem witness_RegisterIndexIsChecked : 7 < Config.regCount ∧ Config.regCount ≤ 8 := by decide

theorem witness_AluResultIsWrappedToRegisterWidth :
    regGet 0 (machine 0 [] 200 2) = .ok 200 ∧ regGet 1 (machine 0 [] 200 2) = .ok 2 := ⟨rfl, rfl⟩

theorem witness_LdiWritesTheLiteral : 7 < Config.regCount := by decide

theorem witness_MulWritesTheWrappedProduct : 7 < Config.regCount ∧ 0 < Config.regCount := by decide

theorem witness_PrnChangesOnlyPcAndOutput : 7 < Config.regCount := by decide

theorem witness_BadRegisterIndexFaultsAtExecute :
    ¬ RegistersExist (.prn 8) ∧ ¬ RegistersExist (.ldi 8 0) ∧ ¬ RegistersExist (.mul 8 0) ∧
      ¬ RegistersExist (.mul 0 8) ∧ (Instr.mul 0 8).wf = true := by
  simp [RegistersExist, Instr.wf, operandFits]

theorem witness_LdiAndMulFrame :
    (∃ t, exec (.ldi 7 255) State.reset = .next t) ∧ (∃ t, exec (.mul 7 0) State.reset = .next t) ∧
      ∃ t, exec (.mul 0 8) State.reset = .next t := ⟨⟨_, rfl⟩, ⟨_, rfl⟩, _, rfl⟩

theorem witness_PrnAndHltFrame :
    (∃ t, exec (.prn 7) State.reset = .next t) ∧ (∃ t, exec (.prn 8) State.reset = .next t) ∧
      ∃ t, exec .hlt State.reset = .next t := ⟨⟨_, rfl⟩, ⟨_, rfl⟩, _, rfl⟩

theorem witness_StepRunsTheDecodedInstruction :
    (machine 253 [0xA2, 0x00, 0x08] 0 0).Active ∧
      decode (codeFrom (machine 253 [0xA2, 0x00, 0x08] 0 0).mem 253) = .ok (.mul 0 8, []) := ⟨.inr rfl, rfl⟩

theorem witness_CompletedCycleAdvancesPc :
    (machine 255 [0x01] 0 0).Active ∧ decode (codeFrom (machine 255 [0x01] 0 0).mem 255) = .ok (.hlt, []) ∧
      decode (codeFrom (machine 254 [0x47, 0x07] 0 0).mem 254) = .ok (.prn 7, []) ∧
      decode (codeFrom (machine 253 [0x82, 0x07, 0xFF] 0 0).mem 253) = .ok (.ldi 7 255, []) ∧
      decode (codeFrom (machine 253 [0xA2, 0x07, 0x07] 0 0).mem 253) = .ok (.mul 7 7, []) ∧
      RegistersExist .hlt ∧ RegistersExist (.prn 7) ∧ RegistersExist (.ldi 7 255) ∧ RegistersExist (.mul 7 7) :=
  ⟨.inr rfl, rfl, rfl, rfl, rfl, by simp [RegistersExist]⟩

theorem witness_LdiCycle :
    (machine 253 [0x82, 0x07, 0xFF] 0 0).Active ∧
      codeFrom (machine 253 [0x82, 0x07, 0xFF] 0 0).mem 253 = [0x82, 0x07, 0xFF] ∧
      (0x07 : Byte).toNat < Config.regCount := ⟨.inr rfl, rfl, by decide⟩

theorem witness_MulCycle :
    (machine 253 [0xA2, 0x00, 0x01] 200 2).Active ∧
      codeFrom (machine 253 [0xA2, 0x00, 0x01] 200 2).mem 253 = [0xA2, 0x00, 0x01] ∧
      regGet 0 (machine 253 [0xA2, 0x00, 0x01] 200 2) = .ok 200 ∧
      regGet 1 (machine 253 [0xA2, 0x00, 0x01] 200 2) = .ok 2 ∧ (0x00 : Byte) ≠ 0x01 :=
  ⟨.inr rfl, rfl, rfl, rfl, by decide⟩

theorem witness_PrnCycleUsesItsOwnOperand :
    (machine 254 [0x47, 0x01] 3 5).Active ∧ codeFrom (machine 254 [0x47, 0x01] 3 5).mem 254 = [0x47, 0x01] ∧
      regGet 1 (machine 254 [0x47, 0x01] 3 5) = .ok 5 := ⟨.inr rfl, rfl, rfl⟩

theorem witness_HltHaltsForGood :
    (machine 255 [0x01] 0 0).Active ∧ (machine 255 [0x01] 0 0).pc.toNat < Config.memCapacity ∧
      (machine 255 [0x01] 0 0).codeByte 0 = 0x01 := ⟨.inr rfl, by decide, by decide⟩

theorem witness_LdiFromAFreshMachine : (0x07 : Byte).toNat < Config.regCount := by decide

theorem witness_UnknownOpcodeIsRecorded :
    (machine 255 [0x33] 0 0).Active ∧ (machine 255 [0x33] 0 0).pc.toNat < Config.memCapacity ∧
      (machine 255 [0x33] 0 0).codeByte 0 = 0x33 ∧ (0x33 : Byte) ∉ [(0x01 : Byte), 0x47, 0x82, 0xA2] :=
  ⟨.inr rfl, by decide, by decide, by decide⟩

theorem witness_OutOfBoundsExactlyWhenAccessIsOutside :
    ((machine 256 [] 0 0).Active ∧ Config.memCapacity ≤ (machine 256 [] 0 0).pc.toNat) ∧
      ((machine 255 [0x47] 0 0).Active ∧ (machine 255 [0x47] 0 0).codeByte 0 = 0x47 ∧
        (machine 255 [0x47] 0 0).pc.toNat = 255) ∧
      (machine 254 [0x82, 0x09] 0 0).Active ∧ (machine 254 [0x82, 0x09] 0 0).codeByte 0 = 0x82 ∧
        (machine 254 [0x82, 0x09] 0 0).pc.toNat = 254 :=
  ⟨⟨.inr rfl, by decide⟩, ⟨.inr rfl, by decide, by decide⟩, .inr rfl, by decide, by decide⟩

/-- The seven clauses in their order, each at a boundary value; every machine here is active. -/
theorem witness_FirstFailingCheckIsReported :
    (∀ p bs r0 r1, (machine p bs r0 r1).Active) ∧
      Config.memCapacity ≤ (machine 256 [] 0 0).pc.toNat ∧
      ((machine 255 [] 0 0).pc.toNat < Config.memCapacity ∧
        (machine 255 [] 0 0).codeByte 0 ∉ [(0x01 : Byte), 0x47, 0x82, 0xA2]) ∧
      ((machine 255 [0xA2] 0 0).codeByte 0 = 0xA2 ∧ (machine 255 [0xA2] 0 0).pc.toNat + 1 = 256) ∧
      ((machine 254 [0xA2, 9] 0 0).codeByte 0 = 0xA2 ∧ (machine 254 [0xA2, 9] 0 0).pc.toNat + 2 = 256) ∧
      ((machine 254 [0x47, 8] 0 0).codeByte 0 = 0x47 ∧ (machine 254 [0x47, 8] 0 0).pc.toNat + 1 = 255 ∧
        ((machine 254 [0x47, 8] 0 0).codeByte 1).toNat = 8) ∧
      ((machine 253 [0x82, 8, 9] 0 0).codeByte 0 = 0x82 ∧ (machine 253 [0x82, 8, 9] 0 0).pc.toNat + 2 = 255 ∧
        ((machine 253 [0x82, 8, 9] 0 0).codeByte 1).toNat = 8) ∧
      (machine 253 [0xA2, 7, 8] 0 0).codeByte 0 = 0xA2 ∧ (machine 253 [0xA2, 7, 8] 0 0).pc.toNat + 2 = 255 ∧
        ((machine 253 [0xA2, 7, 8] 0 0).codeByte 1).toNat = 7 ∧
        ((machine 253 [0xA2, 7, 8] 0 0).codeByte 2).toNat = 8 :=
  ⟨fun _ _ _ _ => .inr rfl, by decide⟩

theorem witness_FaultsArePrecise : ∃ t, step (machine 3 [0xA2, 0, 9] 3 0) = .next t ∧ t.engine = .faulted := ⟨_, rfl, rfl⟩

theorem witness_FirstFaultEndsTheRun : ∃ t, step (machine 5 [] 0 0) = .next t ∧ t.engine = .faulted := ⟨_, rfl, rfl⟩

theorem witness_UnsupportedOperationIsUnreachable :
    (∃ t, step (machine 0 [0xA2, 0, 1] 8 9) = .next t) ∧
      (machine 0 [0xA2, 0, 1] 8 9).fault ≠ some (.unsupportedOperation .mul) := ⟨⟨_, rfl⟩, by decide⟩

/-- A step to each of `Running`, `Halted` and `Faulted`, bytes that decode to an instruction with a bad register, and an
ended machine. -/
theorem witness_EngineTransitions :
    (∃ t, step (machine 254 [0x47, 7] 0 0) = .next t ∧ t.engine = .running) ∧
      (∃ t, step (machine 255 [0x01] 0 0) = .next t ∧ t.engine = .halted) ∧
      (∃ t, step (machine 254 [0x47, 8] 0 0) = .next t ∧ t.engine = .faulted) ∧
      decode (codeFrom (machine 254 [0x47, 8] 0 0).mem 254) = .ok (.prn 8, []) ∧
      ((machine 0 [] 0 0).setEngine .halted).Ended ∧ ((machine 0 [] 0 0).setEngine .faulted).Ended :=
  ⟨⟨_, rfl, rfl⟩, ⟨_, rfl, rfl⟩, ⟨_, rfl, rfl⟩, rfl, .inl rfl, .inr rfl⟩

theorem witness_OnlyHltEntersHaltedAndNothingLeaves :
    (∃ t, step (machine 255 [0x01] 0 0) = .next t ∧ t.engine = .halted) ∧
      ((machine 0 [] 0 0).setEngine .halted).engine = .halted := ⟨⟨_, rfl, rfl⟩, rfl⟩

theorem witness_RegistersMutatedOnlyByLdiAndMul :
    ∃ t, step (machine 0 [0xA2, 0, 1] 8 9) = .next t ∧ t.regs ≠ (machine 0 [0xA2, 0, 1] 8 9).regs ∧ (1 : Nat) ≠ 0 :=
  ⟨_, rfl, by decide, by decide⟩

theorem witness_OneEventPerCompletedPrn :
    (∃ t, step (machine 254 [0x47, 7] 0 0) = .next t ∧ t.engine = .running) ∧
      ∃ t, step (machine 255 [0x47] 0 0) = .next t ∧ t.engine = .faulted := ⟨⟨_, rfl, rfl⟩, _, rfl, rfl⟩

theorem witness_PcOnlyGrowsAndStaysInRange : (machine 256 [] 0 0).pc.toNat ≤ Config.memCapacity := by decide

theorem witness_StepKeepsInvariant : State.reset.Inv ∧ ∃ t, step State.reset = .next t := ⟨reset_inv, _, rfl⟩

theorem witness_EveryRunEndsWithinTheBound :
    (State.reset.pc.toNat ≤ Config.memCapacity ∧ (Config.memCapacity - State.reset.pc.toNat) / 2 + 1 ≤ 129) ∧
      ((machine 256 [] 0 0).pc.toNat ≤ Config.memCapacity ∧
        (Config.memCapacity - (machine 256 [] 0 0).pc.toNat) / 2 + 1 ≤ 1) ∧
      ∃ s, boot [0x01] = .loaded s := ⟨by decide, by decide, _, rfl⟩

theorem witness_HiddenLatchesAreNeverObserved :
    (machine 0 [0x47, 1] 3 5).SameButLatches { machine 0 [0x47, 1] 3 5 with ir := 0x82, opa := 9, opb := 255 } := rfl

end Sys2Proof.Tests
end

/-! Proofs about the state: what a register write, an execute step and a step do, each said once, and the obligations of
spec/10_state.md that follow. -/

namespace Sys2Proof.Machine

/-! ## The register file: a read after a write -/

@[simp] theorem truncW_toNat (v : Nat) : (truncW v).toNat = v % 2 ^ Config.regWidth := BitVec.toNat_ofNat v _

/-- A register read depends on the register file alone. -/
theorem regGet_congr {s t : State} (h : t.regs = s.regs) (j : Nat) : regGet j t = regGet j s := by
  simp only [regGet, h]

theorem regGet_of_regs_set_same {s t : State} {i : Nat} {w : Word} (hi : i < Config.regCount)
    (h : t.regs = s.regs.set i w hi) : regGet i t = .ok w := by
  simp [regGet_of_lt hi, h]

theorem regGet_of_regs_set_ne {s t : State} {i j : Nat} {w : Word} (hi : i < Config.regCount)
    (h : t.regs = s.regs.set i w hi) (hj : j ≠ i) : regGet j t = regGet j s := by
  rcases Nat.lt_or_ge j Config.regCount with hlt | hle
  · simp [regGet_of_lt hlt, h, Vector.getElem_set_ne hi hlt hj.symm]
  · simp only [regGet_of_le hle]

/-! ## The execute step: one equation per instruction and outcome -/

theorem exec_hlt (s : State) : exec .hlt s = .next (s.setEngine .halted) := rfl

theorem exec_prn_of_lt {a : Nat} (ha : a < Config.regCount) (s : State) :
    exec (.prn a) s = .next ((s.emit s.regs[a]).advancePc .prn) := by
  simp only [exec, execPrn, regGet_of_lt ha]
  rfl

theorem exec_prn_of_le {a : Nat} (ha : Config.regCount ≤ a) (s : State) :
    exec (.prn a) s = .next (s.faultWith (.invalidRegister a)) := by
  simp only [exec, execPrn, regGet_of_le ha]
  rfl

theorem exec_ldi_of_lt {a : Nat} (ha : a < Config.regCount) (b : Nat) (s : State) :
    exec (.ldi a b) s = .next (State.advancePc { s with regs := s.regs.set a (truncW b) ha } .ldi) := by
  simp only [exec, execLdi, regSet_of_lt ha]
  rfl

theorem exec_ldi_of_le {a : Nat} (ha : Config.regCount ≤ a) (b : Nat) (s : State) :
    exec (.ldi a b) s = .next (s.faultWith (.invalidRegister a)) := by
  simp only [exec, execLdi, regSet_of_le ha]
  rfl

theorem exec_mul_of_lt {a b : Nat} (ha : a < Config.regCount) (hb : b < Config.regCount) (s : State) :
    exec (.mul a b) s = .next (State.advancePc
      { s with regs := s.regs.set a (truncW (s.regs[a].toNat * s.regs[b].toNat)) ha } .mul) := by
  simp only [exec, execMul, aluApply_of_lt ha hb]
  rfl

theorem exec_mul_bad_dest {a : Nat} (ha : Config.regCount ≤ a) (b : Nat) (s : State) :
    exec (.mul a b) s = .next (s.faultWith (.invalidRegister a)) := by
  simp only [exec, execMul, aluApply_bad_dest ha]
  rfl

theorem exec_mul_bad_src {a b : Nat} (ha : a < Config.regCount) (hb : Config.regCount ≤ b) (s : State) :
    exec (.mul a b) s = .next (s.faultWith (.invalidRegister b)) := by
  simp only [exec, execMul, aluApply_bad_src ha hb]
  rfl

/-- An instruction that names a missing register faults, with one of its operands as the recorded index. -/
theorem exec_of_not_registersExist {i : Instr} (h : ¬ RegistersExist i) (s : State) :
    ∃ k ∈ i.operands, Config.regCount ≤ k ∧ exec i s = .next (s.faultWith (.invalidRegister k)) := by
  cases i with
  | hlt => exact absurd trivial h
  | prn a =>
    have ha := Nat.not_lt.1 h
    exact ⟨a, by simp [Instr.operands], ha, exec_prn_of_le ha s⟩
  | ldi a b =>
    have ha := Nat.not_lt.1 h
    exact ⟨a, by simp [Instr.operands], ha, exec_ldi_of_le ha b s⟩
  | mul a b =>
    rcases Nat.lt_or_ge a Config.regCount with ha | ha
    · have hb : Config.regCount ≤ b := Nat.not_lt.1 fun hb => h ⟨ha, hb⟩
      exact ⟨b, by simp [Instr.operands], hb, exec_mul_bad_src ha hb s⟩
    · exact ⟨a, by simp [Instr.operands], ha, exec_mul_bad_dest ha b s⟩

/-- An instruction other than HLT whose registers exist completes: it has its effect, which is on registers and output
only, and then the PC update. -/
theorem exec_completes {i : Instr} (hi : i ≠ .hlt) (h : RegistersExist i) (s : State) :
    ∃ u : State, exec i s = .next (u.advancePc i.op) ∧
      u.mem = s.mem ∧ u.pc = s.pc ∧ u.engine = s.engine ∧ u.fault = s.fault := by
  cases i with
  | hlt => exact absurd rfl hi
  | prn a => exact ⟨_, exec_prn_of_lt h s, rfl, rfl, rfl, rfl⟩
  | ldi a b => exact ⟨_, exec_ldi_of_lt h b s, rfl, rfl, rfl, rfl⟩
  | mul a b => exact ⟨_, exec_mul_of_lt h.1 h.2 s, rfl, rfl, rfl, rfl⟩

/-- The execute step of an instruction whose registers exist leaves the register file as it is, or is LDI or MUL and
writes the one register its operand a names. -/
theorem exec_regs {i : Instr} (h : RegistersExist i) {s t : State} (he : exec i s = .next t) :
    t.regs = s.regs ∨
      ∃ a b w, ∃ ha : a < Config.regCount, (i = .ldi a b ∨ i = .mul a b) ∧ t.regs = s.regs.set a w ha := by
  cases i with
  | hlt => cases he; exact .inl rfl
  | prn a => rw [exec_prn_of_lt h] at he; cases he; exact .inl rfl
  | ldi a b => rw [exec_ldi_of_lt h] at he; cases he; exact .inr ⟨a, b, _, h, .inl rfl, rfl⟩
  | mul a b =>
    obtain ⟨ha, hb⟩ := h
    rw [exec_mul_of_lt ha hb] at he
    cases he
    exact .inr ⟨a, b, _, ha, .inr rfl, rfl⟩

/-- The PC update of an instruction that lies inside Memory does not wrap (40_engine_cycle.md R84). -/
theorem State.advancePc_pc_toNat {s : State} {op : Op} (h : s.pc.toNat + (rowOf op).operandCount < Config.memCapacity) :
    (s.advancePc op).pc.toNat = s.pc.toNat + (1 + (rowOf op).operandCount) := by
  have hn := operandCount_le op
  simp only [Config.memCapacity, Config.maxOperands] at h hn
  simp only [State.advancePc_pc, BitVec.toNat_add, BitVec.toNat_ofNat, Config.pcWidth]
  omega

/-! ## The step: it raises a fault the cells at `pc` explain, or it runs an instruction whose registers exist -/

@[simp] theorem State.fetched_op (s : State) (op : Op) : (s.fetched op).op = op := Op.withOperands_op op _ _

/-- The operands of the instruction at `pc` are the cells after its opcode byte. -/
theorem State.mem_operands_fetched {s : State} {op : Op} {k : Nat} (h : k ∈ (s.fetched op).operands) :
    ∃ j, 1 ≤ j ∧ j ≤ (rowOf op).operandCount ∧ k = (s.codeByte j).toNat := by
  cases op <;> simp only [State.fetched, Op.withOperands, Instr.operands, List.mem_cons, List.not_mem_nil, or_false] at h
  case prn => exact ⟨1, le_rfl, by decide, h⟩
  case ldi | mul =>
    rcases h with h | h
    · exact ⟨1, le_rfl, by decide, h⟩
    · exact ⟨2, by decide, by decide, h⟩

theorem step_of_active {s : State} (h : s.Active) : step s = cycle s := by
  rcases step_cases s with ⟨-, e⟩ | ⟨he, -⟩ | ⟨he, -⟩
  · exact e
  all_goals rcases h with h | h <;> cases h.symm.trans he

theorem active_of_step {s t : State} (h : step s = .next t) : s.Active := by
  rcases step_cases s with ⟨ha, -⟩ | ⟨-, e⟩ | ⟨-, e⟩
  · exact ha
  · cases h.symm.trans e
  · cases h.symm.trans e

/-- Everything a step of an active machine can do. A fault of fetch, decode, operand fetch or a register check is explained
by the cells at `pc`; where none is raised, the instruction lies inside Memory and the registers it names exist. -/
theorem step_raises_or_runs {s : State} (h : s.Active) :
    (∃ r : FaultRecord, r.ExplainedBy s ∧ s.StepRaises r) ∨
    ∃ op, s.codeByte 0 = (rowOf op).opcode ∧ s.pc.toNat + (rowOf op).operandCount < Config.memCapacity ∧
      RegistersExist (s.fetched op) ∧ step s = exec (s.fetched op) (s.latched (s.fetched op)) := by
  have hstep := step_of_active h
  rcases cycle_cases s with ⟨hpc, e⟩ | ⟨hpc, hl, e⟩ | ⟨op, hpc, hb, ⟨-, h1, e⟩ | ⟨-, -, h2, e⟩ | ⟨hin, e⟩⟩
  · exact .inl ⟨.outOfBounds _, ⟨hpc, le_rfl, Nat.le_add_right _ _⟩, _, hstep.trans e, rfl, rfl, rfl, rfl, rfl, rfl⟩
  · exact .inl ⟨.unknownOpcode _, ⟨hpc, rfl, hl⟩, _, hstep.trans e, rfl, rfl, rfl, rfl, rfl, rfl⟩
  · exact .inl ⟨.outOfBounds _, ⟨h1, by omega, Nat.add_le_add_left (by decide) _⟩, _, hstep.trans e, rfl, rfl, rfl, rfl, rfl, rfl⟩
  · exact .inl ⟨.outOfBounds _, ⟨h2, by omega, le_rfl⟩, _, hstep.trans e, rfl, rfl, rfl, rfl, rfl, rfl⟩
  · by_cases hr : RegistersExist (s.fetched op)
    · exact .inr ⟨op, hb, hin, hr, hstep.trans e⟩
    · obtain ⟨k, hk, hbad, ex⟩ := exec_of_not_registersExist hr (s.latched (s.fetched op))
      obtain ⟨j, hj, hjn, rfl⟩ := State.mem_operands_fetched hk
      have hexpl : (FaultRecord.invalidRegister (s.codeByte j).toNat).ExplainedBy s :=
        ⟨hbad, j, hj, hjn.trans (operandCount_le op), by omega, rfl⟩
      exact .inl ⟨_, hexpl, _, hstep.trans (e.trans ex), by simp⟩

/-! ## The invariant -/

/-- What explains a record are the cells and the `pc`. -/
theorem FaultRecord.ExplainedBy.congr {r : FaultRecord} {s t : State} (h : r.ExplainedBy s)
    (hmem : t.mem = s.mem) (hpc : t.pc = s.pc) : r.ExplainedBy t := by
  unfold FaultRecord.ExplainedBy at h ⊢
  rwa [hmem, hpc]

/-- A machine that meets the invariant and is active has no fault record (10_state.md R30). -/
theorem State.Inv.fault_eq_none {s : State} (h : s.Inv) (ha : s.Active) : s.fault = none := by
  have hne : s.engine ≠ .faulted := by rcases ha with e | e <;> simp [e]
  exact Option.not_isSome_iff_eq_none.1 (mt h.faultIffFaulted.1 hne)

/-- Fault entry keeps the invariant when the record is explained. -/
theorem State.Inv.of_fault {s t : State} {r : FaultRecord} (h : s.Inv) (hr : r.ExplainedBy s)
    (heng : t.engine = .faulted) (hfault : t.fault = some r) (hmem : t.mem = s.mem) (hpc : t.pc = s.pc) : t.Inv where
  memWf := hmem ▸ h.memWf
  pcInRange := hpc ▸ h.pcInRange
  faultIffFaulted := by simp [hfault, heng]
  faultExplained r' hr' := by
    obtain rfl : r = r' := by simpa [hfault] using hr'
    exact hr.congr hmem hpc
  haltedAtHlt he := by simp [heng] at he
  readyIsFresh he := by simp [heng] at he

/-- Halting at an HLT byte keeps the invariant. -/
theorem State.Inv.of_halt {s t : State} (h : s.Inv) (ha : s.Active) (hin : s.pc.toNat < Config.memCapacity)
    (hbyte : s.mem.cell s.pc.toNat = 0x01) (heng : t.engine = .halted) (hfault : t.fault = s.fault)
    (hmem : t.mem = s.mem) (hpc : t.pc = s.pc) : t.Inv where
  memWf := hmem ▸ h.memWf
  pcInRange := hpc ▸ h.pcInRange
  faultIffFaulted := by simp [hfault, heng, h.fault_eq_none ha]
  faultExplained r hr := by simp [hfault, h.fault_eq_none ha] at hr
  haltedAtHlt _ := by rw [hmem, hpc]; exact ⟨hin, hbyte⟩
  readyIsFresh he := by simp [heng] at he

/-- Going on in `Running` keeps the invariant when `pc` stays in range. -/
theorem State.Inv.of_running {s t : State} (h : s.Inv) (ha : s.Active) (heng : t.engine = .running)
    (hfault : t.fault = s.fault) (hmem : t.mem = s.mem) (hpc : t.pc.toNat ≤ Config.memCapacity) : t.Inv where
  memWf := hmem ▸ h.memWf
  pcInRange := hpc
  faultIffFaulted := by simp [hfault, heng, h.fault_eq_none ha]
  faultExplained r hr := by simp [hfault, h.fault_eq_none ha] at hr
  haltedAtHlt he := by simp [heng] at he
  readyIsFresh he := by simp [heng] at he

/-- Every step keeps the invariant: it ends in an explained fault, halts at an HLT byte, or goes on in `Running`. -/
theorem State.Inv.of_step {s t : State} (h : s.Inv) (hs : step s = .next t) : t.Inv := by
  have ha := active_of_step hs
  rcases step_raises_or_runs ha with ⟨r, hr, t', hs', heng, hfault, hmem, -, hpc, -⟩ | ⟨op, hb, hin, hreg, e⟩
  · cases hs.symm.trans hs'
    exact h.of_fault hr heng hfault hmem hpc
  · rw [hs] at e
    by_cases hop : op = .hlt
    · subst hop
      cases e
      exact h.of_halt ha hin hb rfl rfl rfl rfl
    · have hne : s.fetched op ≠ .hlt := fun hi => hop (by simpa [hi, Instr.op] using (s.fetched_op op).symm)
      obtain ⟨u, eu, hmem, hpc, heng, hfault⟩ := exec_completes hne hreg (s.latched (s.fetched op))
      cases e.trans eu
      have hupc : u.pc = s.pc := by simpa using hpc
      have hadv := State.advancePc_pc_toNat (s := u) (op := op) (by rw [hupc]; exact hin)
      refine h.of_running ha (by simpa using heng) (by simpa using hfault) (by simpa using hmem) ?_
      rw [State.fetched_op, hadv, hupc]
      omega

end Sys2Proof.Machine

namespace Sys2Proof.Proofs

open Sys2Proof Sys2Proof.Machine

/-- Settles O50: a step raises an explained fault or runs the instruction at `pc`, and either way the invariant is kept. -/
theorem stepKeepsInvariant : Obligations.StepKeepsInvariant :=
  fun _ _ h hs => h.of_step hs

/-- Settles O46: the faults of a step leave the registers alone, and of the instructions only LDI and MUL write one. -/
theorem registersMutatedOnlyByLdiAndMul : Obligations.RegistersMutatedOnlyByLdiAndMul := by
  intro s t hs hne
  rcases step_raises_or_runs (active_of_step hs) with ⟨_, -, t', hs', -, -, -, hregs, -⟩ | ⟨op, hb, -, hreg, e⟩
  · cases hs.symm.trans hs'
    exact absurd hregs hne
  · rcases exec_regs hreg (e.symm.trans hs) with hsame | ⟨a, b, w, ha, hi, hset⟩
    · exact absurd (by simpa using hsame) hne
    · rw [State.latched_regs] at hset
      cases op with
      | hlt | prn => rcases hi with hi | hi <;> cases hi
      | ldi | mul =>
        rcases hi with hi | hi <;> cases hi
        exact ⟨by simp [hb, rowOf], fun j hj => regGet_of_regs_set_ne ha hset hj⟩

/-- Settles O8: no cell is listed at reset, and an unlisted cell reads 0. -/
theorem resetMemoryHoldsZero : Obligations.ResetMemoryHoldsZero := by
  intro a ha
  rw [memRead_of_lt ha]
  rfl

/-- Settles O9: the registers are read through `get`, the other fields are the literals of the reset state. -/
theorem resetRegistersAndEngine : Obligations.ResetRegistersAndEngine := by
  refine ⟨fun i hi => ?_, rfl, rfl, rfl, rfl, rfl, rfl, rfl⟩
  rw [regGet_of_lt hi]
  simp [State.reset]

/-- Settles O10, clause by clause: reset is in `Ready` and has no fault record, so only the clauses on Memory, `pc` and
`Ready` say anything of it. -/
theorem resetMeetsInvariant : Obligations.ResetMeetsInvariant where
  memWf := rfl
  pcInRange := Nat.zero_le _
  faultIffFaulted := by simp [State.reset]
  faultExplained r hr := by simp [State.reset] at hr
  haltedAtHlt he := by simp [State.reset] at he
  readyIsFresh _ := rfl

/-- Settles O18: the register written reads back the value narrowed to `W` bits. -/
theorem registerSetWrapsAndReadsBack : Obligations.RegisterSetWrapsAndReadsBack :=
  ⟨fun _ v s hi => ⟨_, _, regSet_of_lt hi v s, regGet_of_regs_set_same hi rfl, truncW_toNat v⟩,
   fun _ s hi => ⟨_, regSet_of_lt hi 300 s, regGet_of_regs_set_same hi rfl⟩⟩

/-- Settles O19: a write that succeeds updates one entry of the register file. -/
theorem registerSetLeavesTheOthers : Obligations.RegisterSetLeavesTheOthers := by
  intro i v s t h
  obtain ⟨hi, rfl⟩ := regSet_eq_ok h
  exact ⟨fun j hj => regGet_of_regs_set_ne hi rfl hj, rfl⟩

/-- Settles O20, on the two sides of the bound `R`. -/
theorem registerIndexIsChecked : Obligations.RegisterIndexIsChecked :=
  fun _ v s =>
    ⟨fun hi => ⟨⟨_, regGet_of_lt hi s⟩, _, regSet_of_lt hi v s⟩,
     fun hi => ⟨regGet_of_le hi s, regSet_of_le hi v s⟩⟩

end Sys2Proof.Proofs

/-! Proofs about Memory through its bounds-checked accesses: what a write that succeeds did, what a read answers after a
store, and the obligations of spec/20_memory.md that follow. -/

namespace Sys2Proof.Machine

/-- A write that succeeds was in range, and stored the byte. -/
theorem memWrite_eq_ok {a : Nat} {v : Byte} {m m' : Memory} (h : memWrite a v m = .ok m') :
    a < Config.memCapacity ∧ m' = m.store a v := by
  rcases Nat.lt_or_ge a Config.memCapacity with ha | ha
  · rw [memWrite_of_lt ha] at h
    cases h
    exact ⟨ha, rfl⟩
  · rw [memWrite_of_le ha] at h
    cases h

theorem memRead_store_same {m : Memory} (h : m.wf = true) {a : Nat} (ha : a < Config.memCapacity) (v : Byte) :
    memRead a (m.store a v) = .ok v := by
  rw [memRead_of_lt ha, Memory.cell_store h, if_pos rfl]

/-- A store at `a` is not seen by a read of another address, in range or not. -/
theorem memRead_store_ne {m : Memory} (h : m.wf = true) {a b : Nat} (hb : b ≠ a) (v : Byte) :
    memRead b (m.store a v) = memRead b m := by
  simp only [memRead, Memory.cell_store h, if_neg hb]

end Sys2Proof.Machine

namespace Sys2Proof.Proofs

open Sys2Proof Sys2Proof.Machine

/-- Settles O17: a write that succeeds is a store in range, which a read sees at its own address only. -/
theorem memoryReadReturnsLastWrite : Obligations.MemoryReadReturnsLastWrite := by
  intro a v m m' hwf hw
  obtain ⟨ha, rfl⟩ := memWrite_eq_ok hw
  exact ⟨memRead_store_same hwf ha v, fun b hb => memRead_store_ne hwf hb v⟩

/-- Settles O16, on the two sides of the bound `C`. -/
theorem memoryAccessIsBoundsChecked : Obligations.MemoryAccessIsBoundsChecked :=
  fun _ v m =>
    ⟨fun ha => ⟨⟨_, memRead_of_lt ha m⟩, _, memWrite_of_lt ha v m⟩,
     fun ha => ⟨⟨_, memRead_of_le ha m, rfl⟩, _, memWrite_of_le ha v m, rfl⟩⟩

end Sys2Proof.Proofs

/-! Proofs about the encoding: what the table's lookup, the decoder and the encoder do, and what the assembler reads, each
said once, and the obligations of spec/30_encoding.md that follow. -/

namespace Sys2Proof

/-! ## The opcode table and the decoder -/

/-- The table is closed: a byte is absent exactly when it is none of the four opcodes (30_encoding.md R57, R64). -/
theorem lookup_eq_none_iff (b : Byte) : lookup b = none ↔ b ≠ 0x01 ∧ b ≠ 0x47 ∧ b ≠ 0x82 ∧ b ≠ 0xA2 := by
  simp [lookup, opcodeTable, rowOf, @eq_comm Byte _ b]

/-- Decoding after an opcode byte whose operand bytes are all there. -/
theorem decode_opcode {op : Op} {bs : List Byte} (h : (rowOf op).operandCount ≤ bs.length) :
    decode ((rowOf op).opcode :: bs) =
      .ok (op.withOperands (bs.getD 0 0) (bs.getD 1 0), bs.drop (rowOf op).operandCount) := by
  simp only [decode, lookup_rowOf, if_neg (Nat.not_lt.2 h), rowOf_op]

/-- If bytes decode, they begin with an opcode of the table and all its operand bytes. -/
theorem decode_eq_ok {bs rest : List Byte} {i : Instr} (h : decode bs = .ok (i, rest)) :
    ∃ op tail, bs = (rowOf op).opcode :: tail ∧ (rowOf op).operandCount ≤ tail.length ∧
      i = op.withOperands (tail.getD 0 0) (tail.getD 1 0) ∧ rest = tail.drop (rowOf op).operandCount := by
  cases bs with
  | nil => cases h
  | cons b tail =>
    cases hl : lookup b with
    | none => simp [decode, hl] at h
    | some row =>
      obtain ⟨rfl, hrow⟩ := lookup_eq_some hl
      rcases Nat.lt_or_ge tail.length row.operandCount with hlen | hlen
      · simp [decode, hl, hlen] at h
      · rw [hrow] at hlen
        rw [decode_opcode hlen] at h
        cases h
        exact ⟨row.op, tail, rfl, hlen, rfl, rfl⟩

theorem operandByte_toNat_of_fits {n : Nat} (h : operandFits n = true) : (operandByte n).toNat = n := by
  simpa [operandByte, operandFits] using h

theorem operands_length (i : Instr) : i.operands.length = (rowOf i.op).operandCount := by cases i <;> rfl

/-- A well-formed instruction is what its operation makes of its operand bytes, whatever bytes follow them. -/
theorem withOperands_operandBytes {i : Instr} (h : i.wf = true) (rest : List Byte) :
    i.op.withOperands ((i.operands.map operandByte ++ rest).getD 0 0)
      ((i.operands.map operandByte ++ rest).getD 1 0) = i := by
  cases i with
  | hlt => rfl
  | prn a => exact congrArg Instr.prn (operandByte_toNat_of_fits h)
  | ldi a b =>
    obtain ⟨ha, hb⟩ := Bool.and_eq_true_iff.1 h
    exact congrArg₂ Instr.ldi (operandByte_toNat_of_fits ha) (operandByte_toNat_of_fits hb)
  | mul a b =>
    obtain ⟨ha, hb⟩ := Bool.and_eq_true_iff.1 h
    exact congrArg₂ Instr.mul (operandByte_toNat_of_fits ha) (operandByte_toNat_of_fits hb)

/-- The operand bytes of the instruction an operation makes of a byte list are the first bytes of the list. -/
theorem operandBytes_withOperands {op : Op} {bs : List Byte} (h : (rowOf op).operandCount ≤ bs.length) :
    (op.withOperands (bs.getD 0 0) (bs.getD 1 0)).operands.map operandByte = bs.take (rowOf op).operandCount := by
  match op, bs, h with
  | .hlt, _, _ => rfl
  | .prn, a :: _, _ => simp [Op.withOperands, Instr.operands, rowOf]
  | .ldi, a :: b :: _, _ | .mul, a :: b :: _, _ => simp [Op.withOperands, Instr.operands, rowOf]

end Sys2Proof

namespace Sys2Proof.Machine

/-! ## The assembler: decimal numbers -/

theorem decDigit_of_isDigit {c : Char} (h : c.isDigit = true) : decDigit c = some (c.toNat - '0'.toNat) := by
  have hc : 48 ≤ c.toNat ∧ c.toNat ≤ 57 := by simpa [Char.isDigit, UInt32.le_iff_toNat_le] using h
  exact if_pos hc

/-- On digits the assembler reads the number the library reads. -/
theorem decDigitsFrom_of_isDigit {cs : List Char} (h : ∀ c ∈ cs, c.isDigit = true) (acc : Nat) :
    decDigitsFrom acc cs = some (Nat.ofDigitChars 10 cs acc) := by
  induction cs generalizing acc with
  | nil => rfl
  | cons c cs ih =>
    obtain ⟨hc, hcs⟩ := List.forall_mem_cons.1 h
    simp only [decDigitsFrom, decDigit_of_isDigit hc, ih hcs, Nat.ofDigitChars_cons]

theorem decimal_ne_nil (n : Nat) : decimal n ≠ [] := Nat.toDigits_ne_nil

theorem isDigit_of_mem_decimal {n : Nat} {c : Char} (h : c ∈ decimal n) : c.isDigit = true :=
  Nat.isDigit_of_mem_toDigits (by decide) (by decide) h

theorem decDigitsFrom_decimal (n : Nat) : decDigitsFrom 0 (decimal n) = some n := by
  rw [decDigitsFrom_of_isDigit fun _ => isDigit_of_mem_decimal, decimal, Nat.ofDigitChars_ten_toDigits]

theorem readDecimal_of_ne_nil {ds : List Char} (h : ds ≠ []) : readDecimal ds = (decDigitsFrom 0 ds).bind byteValue := by
  cases ds with
  | nil => exact absurd rfl h
  | cons c cs => rfl

theorem readDecimal_decimal (n : Nat) : readDecimal (decimal n) = byteValue n := by
  rw [readDecimal_of_ne_nil (decimal_ne_nil n), decDigitsFrom_decimal]
  rfl

theorem readRegister_decimal (n : Nat) : readRegister ('r' :: decimal n) = byteValue n := readDecimal_decimal n

/-- A decimal number is not mistaken for a hex number: it has no `x`. -/
theorem readImmediate_decimal (n : Nat) : readImmediate (decimal n) = byteValue n := by
  unfold readImmediate
  split
  · next h l e => exact absurd (isDigit_of_mem_decimal (c := 'x') (n := n) (by simp [e])) (by decide)
  · exact readDecimal_decimal n

theorem byteValue_of_fits {n : Nat} (h : operandFits n = true) : byteValue n = some n := if_pos h

/-! ## The assembler: tokens and lines -/

/-- An operand token: it is not empty, and nothing in it is a blank or a comma. -/
def IsToken (t : List Char) : Prop := t ≠ [] ∧ ∀ c ∈ t, isBlank c = false ∧ c ≠ ','

theorem isBlank_eq_false_and_ne_comma_of_isDigit {c : Char} (h : c.isDigit = true) :
    isBlank c = false ∧ c ≠ ',' := by
  have hne : ∀ d : Char, d.isDigit = false → c ≠ d := fun d hd e => by simp [e, hd] at h
  exact ⟨by simp [isBlank, hne ' ' (by decide), hne '\t' (by decide)], hne ',' (by decide)⟩

theorem isToken_decimal (n : Nat) : IsToken (decimal n) :=
  ⟨decimal_ne_nil n, fun _ h => isBlank_eq_false_and_ne_comma_of_isDigit (isDigit_of_mem_decimal h)⟩

theorem isToken_register (n : Nat) : IsToken ('r' :: decimal n) :=
  ⟨List.cons_ne_nil _ _, List.forall_mem_cons.2 ⟨by decide, (isToken_decimal n).2⟩⟩

theorem dropBlanks_of_head {c : Char} (h : isBlank c = false) (l : List Char) : dropBlanks (c :: l) = c :: l :=
  List.dropWhile_cons_of_neg (by simp [h])

/-- Text that begins and ends with no blank is its own trimming. -/
theorem trimBlanks_eq_self {c : Char} {l : List Char} (h : isBlank c = false)
    (hlast : isBlank ((c :: l).getLast (List.cons_ne_nil c l)) = false) : trimBlanks (c :: l) = c :: l := by
  rw [trimBlanks, dropBlanks_of_head h]
  exact List.rdropWhile_eq_self_iff.2 fun _ => by simp [hlast]

theorem IsToken.trimBlanks {t : List Char} (h : IsToken t) : trimBlanks t = t := by
  obtain ⟨hne, hc⟩ := h
  cases t with
  | nil => exact absurd rfl hne
  | cons c t => exact trimBlanks_eq_self (hc c (by simp)).1 (hc _ (List.getLast_mem _)).1

theorem splitCommas_cons_of_ne {c : Char} (h : c ≠ ',') {l t : List Char} {ts : List (List Char)}
    (hl : splitCommas l = t :: ts) : splitCommas (c :: l) = (c :: t) :: ts := by
  simp [splitCommas, h, hl]

/-- Text without a comma is one part. -/
theorem splitCommas_of_notMem {t : List Char} (h : ',' ∉ t) : splitCommas t = [t] := by
  induction t with
  | nil => rfl
  | cons c t ih =>
    obtain ⟨hc, ht⟩ := not_or.1 (mt List.mem_cons.2 h)
    exact splitCommas_cons_of_ne (Ne.symm hc) (ih ht)

/-- The text before the first comma is the first part. -/
theorem splitCommas_append_comma {t : List Char} (h : ',' ∉ t) (u : List Char) :
    splitCommas (t ++ ',' :: u) = t :: splitCommas u := by
  induction t with
  | nil => rfl
  | cons c t ih =>
    obtain ⟨hc, ht⟩ := not_or.1 (mt List.mem_cons.2 h)
    exact splitCommas_cons_of_ne (Ne.symm hc) (ih ht)

theorem IsToken.comma_notMem {t : List Char} (h : IsToken t) : ',' ∉ t := fun hm => (h.2 _ hm).2 rfl

theorem readMnemonic_mnemonicOf (op : Op) : readMnemonic (mnemonicOf op) = some op := by cases op <;> rfl

/-- A line that is a mnemonic, one space and text without blanks: the text holds the operands. -/
theorem parseLine_mnemonic (op : Op) {text : List Char} (hne : text ≠ []) (h : ∀ c ∈ text, isBlank c = false) :
    parseLine (mnemonicOf op ++ ' ' :: text) = readOperands op ((splitCommas text).map trimBlanks) := by
  have htrim : trimBlanks (mnemonicOf op ++ ' ' :: text) = mnemonicOf op ++ ' ' :: text := by
    cases op <;> exact trimBlanks_eq_self (by decide) (by simpa [hne] using h _ (List.getLast_mem hne))
  have htake : (mnemonicOf op ++ ' ' :: text).takeWhile (fun c => !isBlank c) = mnemonicOf op := by cases op <;> rfl
  have hdrop : dropBlanks ((mnemonicOf op ++ ' ' :: text).dropWhile fun c => !isBlank c) = dropBlanks text := by
    cases op <;> rfl
  have htext : dropBlanks text = text := by
    obtain ⟨c, l, rfl⟩ := List.exists_cons_of_ne_nil hne
    exact dropBlanks_of_head (h c (by simp)) l
  simp [parseLine, htrim, htake, hdrop, htext, readMnemonic_mnemonicOf, hne]

theorem parseLine_one_operand (op : Op) {t : List Char} (ht : IsToken t) :
    parseLine (mnemonicOf op ++ ' ' :: t) = readOperands op [t] := by
  rw [parseLine_mnemonic op ht.1 fun c hc => (ht.2 c hc).1, splitCommas_of_notMem ht.comma_notMem]
  simp only [List.map_cons, List.map_nil, ht.trimBlanks]

theorem parseLine_two_operands (op : Op) {t u : List Char} (ht : IsToken t) (hu : IsToken u) :
    parseLine (mnemonicOf op ++ ' ' :: t ++ ',' :: u) = readOperands op [t, u] := by
  have hblank : ∀ c ∈ t ++ ',' :: u, isBlank c = false :=
    List.forall_mem_append.2
      ⟨fun c hc => (ht.2 c hc).1, List.forall_mem_cons.2 ⟨by decide, fun c hc => (hu.2 c hc).1⟩⟩
  rw [List.append_assoc, List.cons_append, parseLine_mnemonic op (by simp) hblank,
    splitCommas_append_comma ht.comma_notMem, splitCommas_of_notMem hu.comma_notMem]
  simp only [List.map_cons, List.map_nil, ht.trimBlanks, hu.trimBlanks]

/-- The assembler reads the source's spelling of a well-formed instruction (30_encoding.md R68, R72). -/
theorem parseLine_printInstr {i : Instr} (h : i.wf = true) : parseLine (printInstr i) = .ok i := by
  cases i with
  | hlt => rfl
  | prn a =>
    refine (parseLine_one_operand .prn (isToken_register a)).trans ?_
    simp only [readOperands, readRegister_decimal, byteValue_of_fits h]
    rfl
  | ldi a b =>
    obtain ⟨ha, hb⟩ := Bool.and_eq_true_iff.1 h
    refine (parseLine_two_operands .ldi (isToken_register a) (isToken_decimal b)).trans ?_
    simp only [readOperands, readRegister_decimal, readImmediate_decimal, byteValue_of_fits ha, byteValue_of_fits hb]
  | mul a b =>
    obtain ⟨ha, hb⟩ := Bool.and_eq_true_iff.1 h
    refine (parseLine_two_operands .mul (isToken_register a) (isToken_register b)).trans ?_
    simp only [readOperands, readRegister_decimal, byteValue_of_fits ha, byteValue_of_fits hb]

end Sys2Proof.Machine

namespace Sys2Proof.Proofs

open Sys2Proof Sys2Proof.Machine

/-- Settles O1: the decoder finds the row of the opcode byte, and the operand bytes give the operands back. -/
theorem decodeOfEncodeIsTheInstruction : Obligations.DecodeOfEncodeIsTheInstruction := by
  intro i rest h
  have hlen : (i.operands.map operandByte).length = (rowOf i.op).operandCount := by
    rw [List.length_map, operands_length]
  rw [encode, List.cons_append, decode_opcode (by simp [hlen]), withOperands_operandBytes h, List.drop_left' hlen]

/-- Settles O2: bytes that decode are an opcode of the table, its operand bytes, and the rest. -/
theorem decodedBytesAreTheEncoding : Obligations.DecodedBytesAreTheEncoding := by
  intro bs i rest h
  obtain ⟨op, tail, rfl, hlen, rfl, rfl⟩ := decode_eq_ok h
  refine ⟨Op.withOperands_wf .., ?_⟩
  rw [encode, Op.withOperands_op, operandBytes_withOperands hlen, List.cons_append, List.take_append_drop]

/-- Settles O6: the parsed instruction is the printed one, and assembling encodes it. -/
theorem assemblerReadsWhatIsPrinted : Obligations.AssemblerReadsWhatIsPrinted := by
  intro i h
  have hparse := parseLine_printInstr h
  exact ⟨hparse, by rw [assembleLine, hparse]; rfl⟩

/-- Settles O37: the byte is absent from the table, and of all a cycle can do only the unknown-opcode fault is left. -/
theorem unknownOpcodeIsRecorded : Obligations.UnknownOpcodeIsRecorded := by
  intro s ha hpc h1 h2 h3 h4
  have hnone : lookup (s.codeByte 0) = none := (lookup_eq_none_iff _).2 ⟨h1, h2, h3, h4⟩
  rw [step_of_active ha]
  rcases cycle_cases s with ⟨hout, -⟩ | ⟨-, -, e⟩ | ⟨op, -, hb, -⟩
  · exact absurd hpc (Nat.not_lt.2 hout)
  · exact e
  · cases (lookup_rowOf op).symm.trans ((congrArg lookup hb).symm.trans hnone)

/-- Settles O3: each example is evaluated. -/
theorem sourceEncodingExamples : Obligations.SourceEncodingExamples :=
  ⟨rfl, rfl, rfl, rfl, rfl, rfl, rfl, rfl, rfl, rfl⟩

/-- Settles O4: an opcode of the table has its row's length, and any other byte is absent from the table. -/
theorem lengthDecoderHasFourRows : Obligations.LengthDecoderHasFourRows := by
  intro b
  split_ifs with h1 h2 h3 h4
  · subst h1; rfl
  · subst h2; rfl
  · subst h3; rfl
  · subst h4; rfl
  · simp [instrLength, operandCount, (lookup_eq_none_iff b).2 ⟨h1, h2, h3, h4⟩]

/-- Settles O5: the decoder passes every operand byte on, and the register file's check is in the execute step. -/
theorem decodeDoesNotCheckOperands : Obligations.DecodeDoesNotCheckOperands :=
  ⟨fun a b rest =>
      ⟨decode_opcode (op := .prn) (bs := a :: rest) (by simp [rowOf]),
       decode_opcode (op := .ldi) (bs := a :: b :: rest) (by simp [rowOf]),
       decode_opcode (op := .mul) (bs := a :: b :: rest) (by simp [rowOf])⟩,
   rfl,
   fun s => ⟨_, _, exec_ldi_of_le (by decide) 1 s, rfl, rfl, rfl⟩⟩

end Sys2Proof.Proofs

/-! Proofs about the cycle: what a step does when the cells at `pc` decode, how far it moves `pc`, and the obligations of
spec/40_engine_cycle.md that follow. -/

namespace Sys2Proof

theorem rowOf_opcode_injective {op op' : Op} (h : (rowOf op).opcode = (rowOf op').opcode) : op = op' := by
  have hrow : rowOf op = rowOf op' := by simpa [lookup_rowOf] using congrArg lookup h
  simpa using congrArg OpcodeRow.op hrow

end Sys2Proof

namespace Sys2Proof.Machine

/-! ## The cells at `pc` as code -/

@[simp] theorem codeFrom_length (m : Memory) (p : Nat) : (codeFrom m p).length = Config.memCapacity - p := by
  simp [codeFrom]

theorem codeFrom_getD {p k : Nat} (h : p + k < Config.memCapacity) (m : Memory) (d : Byte) :
    (codeFrom m p).getD k d = m.cell (p + k) := by
  have hk : k < (codeFrom m p).length := by rw [codeFrom_length]; omega
  rw [List.getD_eq_getElem _ _ hk]
  simp [codeFrom]

/-- The instruction that the cells after `pc` give an operation is the one a cycle fetches, if it lies inside Memory. -/
theorem State.withOperands_codeFrom {s : State} {op : Op}
    (h : s.pc.toNat + (rowOf op).operandCount < Config.memCapacity) :
    op.withOperands ((codeFrom s.mem (s.pc.toNat + 1)).getD 0 0) ((codeFrom s.mem (s.pc.toNat + 1)).getD 1 0) =
      s.fetched op := by
  cases op with
  | hlt => rfl
  | prn => simp only [Op.withOperands, State.fetched, codeFrom_getD (p := s.pc.toNat + 1) (k := 0) h]
  | ldi | mul =>
    have h0 : s.pc.toNat + 1 + 0 < Config.memCapacity := Nat.lt_of_succ_lt h
    simp only [Op.withOperands, State.fetched, codeFrom_getD h0, codeFrom_getD (p := s.pc.toNat + 1) (k := 1) h]

/-- If the cells at `pc` decode, they are an opcode and its operands inside Memory, and decode to what a cycle fetches. -/
theorem State.decode_codeFrom_eq_ok {s : State} {i : Instr} {rest : List Byte}
    (h : decode (codeFrom s.mem s.pc.toNat) = .ok (i, rest)) :
    ∃ op, s.codeByte 0 = (rowOf op).opcode ∧ s.pc.toNat + (rowOf op).operandCount < Config.memCapacity ∧
      i = s.fetched op := by
  obtain ⟨op, tail, hcode, hlen, rfl, -⟩ := decode_eq_ok h
  rcases Nat.lt_or_ge s.pc.toNat Config.memCapacity with hpc | hpc
  · rw [codeFrom_of_lt hpc] at hcode
    obtain ⟨hb, rfl⟩ := List.cons.inj hcode
    have hin : s.pc.toNat + (rowOf op).operandCount < Config.memCapacity := by rw [codeFrom_length] at hlen; omega
    exact ⟨op, hb, hin, State.withOperands_codeFrom hin⟩
  · rw [codeFrom_of_le hpc] at hcode
    cases hcode

/-! ## The step of an instruction that lies inside Memory -/

/-- With a table opcode at `pc` and its operands inside Memory, no check before the execute step fails. -/
theorem step_of_codeByte {s : State} {op : Op} (ha : s.Active) (hb : s.codeByte 0 = (rowOf op).opcode)
    (hin : s.pc.toNat + (rowOf op).operandCount < Config.memCapacity) :
    step s = exec (s.fetched op) (s.latched (s.fetched op)) := by
  rw [step_of_active ha]
  rcases cycle_cases s with ⟨hout, -⟩ | ⟨-, hnone, -⟩ | ⟨op', -, hb', hcases⟩
  · omega
  · cases (lookup_rowOf op).symm.trans ((congrArg lookup hb).symm.trans hnone)
  · obtain rfl : op = op' := rowOf_opcode_injective (hb.symm.trans hb')
    rcases hcases with ⟨hn, hout, -⟩ | ⟨hn, -, hout, -⟩ | ⟨-, e⟩
    · omega
    · omega
    · exact e

theorem pcAdvance_of_ne_hlt {i : Instr} (hi : i ≠ .hlt) : pcAdvance i = 1 + (rowOf i.op).operandCount := by
  cases i with
  | hlt => exact absurd rfl hi
  | prn | ldi | mul => rfl

theorem pcAdvance_le (i : Instr) : pcAdvance i ≤ 1 + (rowOf i.op).operandCount := by
  by_cases hi : i = .hlt
  · subst hi
    exact Nat.zero_le _
  · exact (pcAdvance_of_ne_hlt hi).le

/-- The execute step of an instruction inside Memory whose registers exist: no fault, and `pc` advances as R83 says. -/
theorem exec_advances_pc {i : Instr} (h : RegistersExist i) {s : State}
    (hin : s.pc.toNat + (rowOf i.op).operandCount < Config.memCapacity) :
    ∃ t, exec i s = .next t ∧ (t.engine = .halted ∨ t.engine = s.engine) ∧ t.fault = s.fault ∧
      t.pc.toNat = s.pc.toNat + pcAdvance i := by
  by_cases hi : i = .hlt
  · subst hi
    exact ⟨_, exec_hlt s, .inl rfl, rfl, rfl⟩
  · obtain ⟨u, e, -, hpc, heng, hfault⟩ := exec_completes hi h s
    refine ⟨_, e, .inr heng, hfault, ?_⟩
    rw [State.advancePc_pc_toNat (hpc ▸ hin), hpc, pcAdvance_of_ne_hlt hi]

/-! ## Along a run -/

/-- A step from a `pc` in `[0, C]` keeps it there and does not lower it: a fault leaves `pc`, and an instruction that
completes lies inside Memory (40_engine_cycle.md R84). -/
theorem step_pc_mono_and_le {s t : State} (hpc : s.pc.toNat ≤ Config.memCapacity) (hs : step s = .next t) :
    s.pc.toNat ≤ t.pc.toNat ∧ t.pc.toNat ≤ Config.memCapacity := by
  rcases step_raises_or_runs (active_of_step hs) with ⟨_, -, t', hs', -, -, -, -, hsame, -⟩ | ⟨op, -, hin, hreg, e⟩
  · cases hs.symm.trans hs'
    exact ⟨hsame.symm ▸ le_rfl, hsame.symm ▸ hpc⟩
  · obtain ⟨t', e', -, -, hadv⟩ := exec_advances_pc hreg (s := s.latched (s.fetched op)) (by simpa using hin)
    cases hs.symm.trans (e.trans e')
    have hle := pcAdvance_le (s.fetched op)
    rw [State.fetched_op] at hle
    rw [State.latched_pc] at hadv
    omega

/-- What every step keeps, a run of any length keeps. -/
theorem drive_preserves {P : State → Prop} (hstep : ∀ s t, P s → step s = .next t → P t) (n : Nat) {s : State}
    (h : P s) : P (drive n s) := by
  induction n generalizing s with
  | zero => exact h
  | succ n ih =>
    rcases drive_succ n s with ⟨t, hs, e⟩ | ⟨-, e⟩ <;> rw [e]
    · exact ih (hstep s t h hs)
    · exact h

end Sys2Proof.Machine

namespace Sys2Proof.Proofs

open Sys2Proof Sys2Proof.Machine

/-- Settles O30: bytes that decode lie inside Memory and give the instruction the cycle fetches, so the cycle reaches its
execute step. -/
theorem stepRunsTheDecodedInstruction : Obligations.StepRunsTheDecodedInstruction := by
  intro s i rest ha hdec
  obtain ⟨op, hb, hin, rfl⟩ := State.decode_codeFrom_eq_ok hdec
  exact ⟨Op.withOperands_wf .., step_of_codeByte ha hb hin⟩

/-- Settles O31: the step is the execute step of the decoded instruction, which lies inside Memory. -/
theorem completedCycleAdvancesPc : Obligations.CompletedCycleAdvancesPc := by
  intro s i rest ha hdec hreg
  obtain ⟨op, hb, hin, rfl⟩ := State.decode_codeFrom_eq_ok hdec
  obtain ⟨t, e, heng, hfault, hpc⟩ :=
    exec_advances_pc hreg (s := s.latched (s.fetched op)) (by simpa using hin)
  refine ⟨t, (step_of_codeByte ha hb hin).trans e, ?_, by simpa using hfault, by simpa using hpc⟩
  rcases heng with heng | heng <;> simp [heng]

/-- Settles O49: the bounds, with the `pc` of the start as the lower one, are kept by each step of the run. -/
theorem pcOnlyGrowsAndStaysInRange : Obligations.PcOnlyGrowsAndStaysInRange := by
  intro n s hpc
  refine drive_preserves (P := fun t => s.pc.toNat ≤ t.pc.toNat ∧ t.pc.toNat ≤ Config.memCapacity)
    (fun u t hu hs => ?_) n ⟨le_rfl, hpc⟩
  obtain ⟨hlow, hhigh⟩ := hu
  obtain ⟨hmono, hle⟩ := step_pc_mono_and_le hhigh hs
  exact ⟨hlow.trans hmono, hle⟩

end Sys2Proof.Proofs

/-! Proofs about LDI: the bytes of an image as code at its address, what LDI and MUL leave unchanged, and the
obligations of spec/41_ldi.md that follow. -/

namespace Sys2Proof.Machine

/-! ## The bytes of an image as code at its address -/

/-- Laying bytes from `p` on leaves the cells before `p` and those after the last byte. -/
theorem storeBytes_cell_of_outside {m : Memory} (hm : m.wf = true) {p a : Nat} {bs : List Byte}
    (ha : a < p ∨ p + bs.length ≤ a) : (storeBytes m p bs).cell a = m.cell a := by
  induction bs generalizing m p with
  | nil => rfl
  | cons b bs ih =>
    rw [List.length_cons] at ha
    have hne : a ≠ p := by omega
    rw [storeBytes]
    split
    · next hp => rw [ih (Memory.wf_store hp hm) (by omega), Memory.cell_store hm, if_neg hne]
    · exact ih hm (by omega)

/-- Bytes laid from `p` on, all inside Memory, are what an instruction at `p` is read from. -/
theorem codeFrom_storeBytes {m : Memory} (hm : m.wf = true) {p : Nat} {bs : List Byte}
    (hlen : p + bs.length ≤ Config.memCapacity) :
    codeFrom (storeBytes m p bs) p = bs ++ codeFrom (storeBytes m p bs) (p + bs.length) := by
  induction bs generalizing m p with
  | nil => rfl
  | cons b bs ih =>
    rw [List.length_cons] at hlen
    have hp : p < Config.memCapacity := by omega
    have hwf := Memory.wf_store (v := b) hp hm
    have hcell : (storeBytes (m.store p b) (p + 1) bs).cell p = b := by
      rw [storeBytes_cell_of_outside hwf (.inl (Nat.lt_succ_self p)), Memory.cell_store hm, if_pos rfl]
    rw [storeBytes, if_pos hp, codeFrom_of_lt hp, hcell, ih hwf (by omega), List.length_cons, Nat.add_assoc,
      Nat.add_comm 1, List.cons_append]

/-- Loading an image that fits, from an address on, lays its bytes there and changes nothing but Memory. -/
theorem loadPairs_imagePairs {s : State} (hs : s.engine = .ready) {k : Nat} {image : List Byte}
    (hlen : k + image.length ≤ Config.memCapacity) :
    loadPairs (imagePairs k image) s = .loaded (s.setMem (storeBytes s.mem k image)) := by
  induction image generalizing s k with
  | nil => rfl
  | cons b image ih =>
    rw [List.length_cons] at hlen
    have hk : k < Config.memCapacity := by omega
    rcases loaderWrite_cases k b s with ⟨hne, -⟩ | ⟨-, hout, -⟩ | ⟨-, -, e⟩
    · exact absurd hs hne
    · omega
    · simp only [imagePairs, loadPairs, e, storeBytes, if_pos hk]
      exact ih (s := s.setMem (s.mem.store k b)) hs (by omega)

theorem boot_of_length_le {image : List Byte} (hlen : image.length ≤ Config.memCapacity) :
    boot image = .loaded (State.reset.setMem (storeBytes [] 0 image)) :=
  loadPairs_imagePairs rfl (by omega)

/-! ## The instructions that write a register -/

/-- Everything LDI and MUL can do: fault entry, or a write of register `a` alone and the PC update. -/
theorem exec_ldi_or_mul_cases {i : Instr} {a b : Nat} (hi : i = .ldi a b ∨ i = .mul a b) (s : State) :
    (∃ r, exec i s = .next (s.faultWith r)) ∨
      ∃ w, ∃ ha : a < Config.regCount,
        exec i s = .next (State.advancePc { s with regs := s.regs.set a w ha } i.op) := by
  by_cases h : RegistersExist i
  · rcases hi with rfl | rfl
    · exact .inr ⟨_, h, exec_ldi_of_lt h b s⟩
    · exact .inr ⟨_, h.1, exec_mul_of_lt h.1 h.2 s⟩
  · obtain ⟨_, -, -, e⟩ := exec_of_not_registersExist h s
    exact .inl ⟨_, e⟩

end Sys2Proof.Machine

namespace Sys2Proof.Proofs

open Sys2Proof Sys2Proof.Machine

/-- Settles O28: a fault changes engine and record only, and otherwise one register and `pc` changed. -/
theorem ldiAndMulFrame : Obligations.LdiAndMulFrame := by
  intro a b s t h
  obtain ⟨i, hi, he⟩ : ∃ i, (i = .ldi a b ∨ i = .mul a b) ∧ exec i s = .next t := by simpa using h
  rcases exec_ldi_or_mul_cases hi s with ⟨r, e⟩ | ⟨w, ha, e⟩ <;> cases he.symm.trans e
  · exact ⟨fun j _ => regGet_congr rfl j, fun _ => rfl, rfl, rfl, rfl, rfl, .inr ⟨rfl, rfl, rfl, rfl⟩⟩
  · exact ⟨fun j hj => regGet_of_regs_set_ne ha rfl hj, fun _ => rfl, rfl, rfl, rfl, rfl, .inl ⟨rfl, rfl⟩⟩

/-- Settles O22: the execute step writes the narrowed literal and advances `pc` past the two operand bytes. -/
theorem ldiWritesTheLiteral : Obligations.LdiWritesTheLiteral :=
  fun _ b s ha => exec_ldi_of_lt ha b s

/-- Settles O32: the step is LDI's execute step in the latched state, whose registers, Memory and output are those of
`s`; that `pc` does not wrap is O31. -/
theorem ldiCycle : Obligations.LdiCycle := by
  intro s a b rest hact hcode ha
  obtain ⟨-, hdec, -⟩ := decodeDoesNotCheckOperands.1 a b rest
  rw [← hcode] at hdec
  obtain ⟨-, hrun⟩ := stepRunsTheDecodedInstruction s _ rest hact hdec
  obtain ⟨t, hs, -, -, hpc⟩ := completedCycleAdvancesPc s _ rest hact hdec ha
  cases hs.symm.trans (hrun.trans (exec_ldi_of_lt ha b.toNat _))
  exact ⟨_, _, hs, regGet_of_regs_set_same ha rfl, truncW_toNat _, fun j hj => regGet_of_regs_set_ne ha rfl hj,
    hpc, rfl, rfl, rfl⟩

/-- Settles O36: the image is the code at address 0, so the first step of the loaded machine is the LDI cycle of O32. -/
theorem ldiFromAFreshMachine : Obligations.LdiFromAFreshMachine := by
  intro i v hi
  have hlen : 0 + [0x82, i, v].length ≤ Config.memCapacity := by simp [Config.memCapacity]
  obtain ⟨t, w, hs, hget, hw, -, hpc, -⟩ := ldiCycle (State.reset.setMem (storeBytes [] 0 [0x82, i, v])) i v _
    (.inl rfl) (codeFrom_storeBytes rfl hlen) hi
  exact ⟨_, t, w, boot_of_length_le hlen, hs, hget, hw.trans (Nat.mod_eq_of_lt v.isLt), BitVec.eq_of_toNat_eq hpc⟩

end Sys2Proof.Proofs

/-! Proofs about the ALU and MUL: what a step does to the fault record, and the obligations of spec/42_alu.md that
follow. -/

namespace Sys2Proof.Machine

/-- The fault record after a step is the one before it, or one that the cells at `pc` explain. -/
theorem step_fault_eq_or_explained {s t : State} (hs : step s = .next t) :
    t.fault = s.fault ∨ ∃ r : FaultRecord, r.ExplainedBy s ∧ t.fault = some r := by
  rcases step_raises_or_runs (active_of_step hs) with ⟨r, hr, t', hs', -, hfault, -⟩ | ⟨op, -, hin, hreg, e⟩
  · cases hs.symm.trans hs'
    exact .inr ⟨r, hr, hfault⟩
  · obtain ⟨t', e', -, hfault, -⟩ := exec_advances_pc hreg (s := s.latched (s.fetched op)) (by simpa using hin)
    cases hs.symm.trans (e.trans e')
    exact .inl (by simpa using hfault)

end Sys2Proof.Machine

namespace Sys2Proof.Proofs

open Sys2Proof Sys2Proof.Machine

/-- Settles O33: the step is MUL's execute step in the latched state, whose registers, Memory and output are those of
`s`. That `pc` does not wrap is O31, and a source other than the destination is one of the registers O28 leaves alone. -/
theorem mulCycle : Obligations.MulCycle := by
  intro s a b x y rest hact hcode hx hy
  obtain ⟨ha, rfl⟩ := regGet_eq_ok hx
  obtain ⟨hb, rfl⟩ := regGet_eq_ok hy
  obtain ⟨-, -, hdec⟩ := decodeDoesNotCheckOperands.1 a b rest
  rw [← hcode] at hdec
  obtain ⟨-, hrun⟩ := stepRunsTheDecodedInstruction s _ rest hact hdec
  obtain ⟨t, hs, -, -, hpc⟩ := completedCycleAdvancesPc s _ rest hact hdec ⟨ha, hb⟩
  obtain ⟨hothers, -⟩ := ldiAndMulFrame _ _ _ t (.inr (hrun.symm.trans hs))
  cases hs.symm.trans (hrun.trans (exec_mul_of_lt ha hb _))
  exact ⟨_, _, hs, regGet_of_regs_set_same ha rfl, truncW_toNat _,
    fun hab => (hothers _ fun h => hab (BitVec.eq_of_toNat_eq h.symm)).trans hy, hothers, hpc, rfl, rfl, rfl⟩

/-- Settles O42: a step raises only what the cells at `pc` explain, and no cell explains an unsupported operation. -/
theorem unsupportedOperationIsUnreachable : Obligations.UnsupportedOperationIsUnreachable := by
  intro s t op hs hne hfault
  rcases step_fault_eq_or_explained hs with hsame | ⟨r, hr, hfault'⟩
  · exact hne (hsame.symm.trans hfault)
  · cases hfault.symm.trans hfault'
    exact hr

/-- Settles O21: both reads succeed, so both registers exist, and the ALU's one write is of the truncated product. -/
theorem aluResultIsWrappedToRegisterWidth : Obligations.AluResultIsWrappedToRegisterWidth := by
  intro d src x y s hx hy
  obtain ⟨hd, rfl⟩ := regGet_eq_ok hx
  obtain ⟨hsrc, rfl⟩ := regGet_eq_ok hy
  exact ⟨_, _, aluApply_of_lt hd hsrc s, regGet_of_regs_set_same hd rfl, truncW_toNat _,
    fun j hj => regGet_of_regs_set_ne hd rfl hj⟩

/-- Settles O23: the execute step writes the ALU's product and advances `pc` past the two operand bytes. -/
theorem mulWritesTheWrappedProduct : Obligations.MulWritesTheWrappedProduct :=
  fun _ _ s ha hb => exec_mul_of_lt ha hb s

end Sys2Proof.Proofs

/-! Proofs about PRN: everything its execute step can do, that no other instruction writes the output, and the obligations
of spec/43_prn.md that follow. -/

namespace Sys2Proof.Machine

/-- Everything PRN can do: emit its register's value and update `pc`, or fault on a register that does not exist. -/
theorem exec_prn_cases (a : Nat) (s : State) :
    (∃ ha : a < Config.regCount, exec (.prn a) s = .next ((s.emit s.regs[a]).advancePc .prn)) ∨
      exec (.prn a) s = .next (s.faultWith (.invalidRegister a)) := by
  rcases Nat.lt_or_ge a Config.regCount with ha | ha
  · exact .inl ⟨ha, exec_prn_of_lt ha s⟩
  · exact .inr (exec_prn_of_le ha s)

end Sys2Proof.Machine

namespace Sys2Proof.Proofs

open Sys2Proof Sys2Proof.Machine

/-- PRN is the one user of the output port (43_prn.md R110); for LDI and MUL this is part of O28. -/
theorem exec_output_of_op_ne_prn {i : Instr} (hi : i.op ≠ .prn) {s t : State} (he : exec i s = .next t) :
    t.output = s.output := by
  cases i with
  | hlt => cases he; rfl
  | prn a => exact absurd rfl hi
  | ldi a b =>
    obtain ⟨-, -, -, -, -, hout, -⟩ := ldiAndMulFrame a b s t (.inl he)
    exact hout
  | mul a b =>
    obtain ⟨-, -, -, -, -, hout, -⟩ := ldiAndMulFrame a b s t (.inr he)
    exact hout

/-- Settles O29: HLT changes the engine, PRN changes output and `pc`, or engine and record when it faults; nothing of what
the frame lists. -/
theorem prnAndHltFrame : Obligations.PrnAndHltFrame := by
  intro a s t
  refine ⟨?_, fun h => ?_, fun h => ?_⟩
  · rintro (h | h)
    · rcases exec_prn_cases a s with ⟨_, e⟩ | e <;> cases h.symm.trans e
      · exact ⟨regGet_congr rfl, fun _ => rfl, rfl, rfl, rfl⟩
      · exact ⟨regGet_congr rfl, fun _ => rfl, rfl, rfl, rfl⟩
    · cases h
      exact ⟨regGet_congr rfl, fun _ => rfl, rfl, rfl, rfl⟩
  · cases h
    exact ⟨rfl, rfl, rfl⟩
  · rcases exec_prn_cases a s with ⟨_, e⟩ | e <;> cases h.symm.trans e
    · exact .inl ⟨rfl, rfl⟩
    · exact .inr ⟨rfl, rfl, rfl, rfl⟩

/-- Settles O34: the step is PRN's execute step in the latched state, whose registers, Memory and output are those of `s`;
that `pc` does not wrap is O31. -/
theorem prnCycleUsesItsOwnOperand : Obligations.PrnCycleUsesItsOwnOperand := by
  intro s a x rest hact hcode hx
  obtain ⟨ha, rfl⟩ := regGet_eq_ok hx
  obtain ⟨hdec, -, -⟩ := decodeDoesNotCheckOperands.1 a 0 rest
  rw [← hcode] at hdec
  obtain ⟨-, hrun⟩ := stepRunsTheDecodedInstruction s _ rest hact hdec
  obtain ⟨t, hs, -, -, hpc⟩ := completedCycleAdvancesPc s _ rest hact hdec ha
  cases hs.symm.trans (hrun.trans (exec_prn_of_lt ha _))
  exact ⟨_, hs, rfl, rfl, rfl, hpc, rfl⟩

/-- Settles O47: a step that raises a fault ends in `Faulted` and emits nothing; where none is raised, PRN emits its
register's value, and no other instruction writes the output. -/
theorem oneEventPerCompletedPrn : Obligations.OneEventPerCompletedPrn := by
  intro s t hs
  rcases step_raises_or_runs (active_of_step hs) with
    ⟨_, -, t', hs', heng, -, -, -, -, hout⟩ | ⟨op, hb, -, hreg, e⟩
  · cases hs.symm.trans hs'
    exact .inr ⟨by simp [heng], hout⟩
  · rw [hs] at e
    by_cases hop : op = .prn
    · subst hop
      cases e.trans (exec_prn_of_lt hreg _)
      exact .inl ⟨rfl, hb, _, regGet_of_lt hreg s, rfl⟩
    · have hbyte : s.codeByte 0 ≠ 0x47 := fun h => hop (rowOf_opcode_injective (op' := .prn) (hb.symm.trans h))
      have hout := exec_output_of_op_ne_prn (by simpa using hop) e.symm
      exact .inr ⟨fun h => hbyte h.2, by simpa using hout⟩

/-- Settles O24: the execute step emits the register's value and advances `pc` past the operand byte. -/
theorem prnChangesOnlyPcAndOutput : Obligations.PrnChangesOnlyPcAndOutput :=
  fun _ s ha => exec_prn_of_lt ha s

end Sys2Proof.Proofs

/-! Proofs about HLT: it alone halts a running machine, a halted machine has no step, and the obligations of
spec/44_hlt.md that follow. -/

namespace Sys2Proof.Machine

theorem step_of_halted {s : State} (h : s.engine = .halted) : step s = .fault .haltedHasNoStep := by
  rcases step_cases s with ⟨ha, -⟩ | ⟨-, e⟩ | ⟨he, -⟩
  · rcases ha with ha | ha <;> cases h.symm.trans ha
  · exact e
  · cases h.symm.trans he

/-- The one instruction whose execute step enters `Halted` is HLT: the others fault, or complete and leave the engine as
it is. -/
theorem eq_hlt_of_exec_halts {i : Instr} {s t : State} (hs : s.engine ≠ .halted) (he : exec i s = .next t)
    (ht : t.engine = .halted) : i = .hlt := by
  by_contra hi
  by_cases hr : RegistersExist i
  · obtain ⟨u, e, -, -, heng, -⟩ := exec_completes hi hr s
    cases he.symm.trans e
    exact hs (heng.symm.trans ht)
  · obtain ⟨k, -, -, e⟩ := exec_of_not_registersExist hr s
    cases he.symm.trans e
    cases ht

end Sys2Proof.Machine

namespace Sys2Proof.Proofs

open Sys2Proof Sys2Proof.Machine

/-- Settles O35: the step is HLT's execute step in the latched state, and driving a machine that has ended does nothing. -/
theorem hltHaltsForGood : Obligations.HltHaltsForGood := by
  intro s ha hpc hb
  have hrun := step_of_codeByte (op := .hlt) ha hb hpc
  exact ⟨_, hrun.trans (exec_hlt _), rfl, rfl, rfl, rfl, rfl, step_of_halted rfl, drive_ended (.inl rfl)⟩

/-- Settles O45: a step that raises a fault ends in `Faulted`, and one that runs an instruction into `Halted` ran HLT. A
halted machine has ended, and its loader port is closed. -/
theorem onlyHltEntersHaltedAndNothingLeaves : Obligations.OnlyHltEntersHaltedAndNothingLeaves := by
  refine ⟨fun s t hs ht => ?_, fun s a v hs => ⟨drive_ended (.inl hs), ?_⟩⟩
  · rcases step_raises_or_runs (active_of_step hs) with ⟨r, -, t', hs', heng, -⟩ | ⟨op, hb, hin, -, e⟩
    · cases hs.symm.trans hs'
      cases ht.symm.trans heng
    · have hi : s.fetched op = .hlt := eq_hlt_of_exec_halts (by simp) (e.symm.trans hs) ht
      obtain rfl : Op.hlt = op := (congrArg Instr.op hi).symm.trans (s.fetched_op op)
      exact ⟨hin, hb⟩
  · rcases loaderWrite_cases a v s with ⟨-, e⟩ | ⟨hready, -⟩ | ⟨hready, -⟩
    · exact e
    all_goals cases hs.symm.trans hready

/-- Settles O25: HLT's effect is the engine's transition, with no PC update (44_hlt.md R115). -/
theorem hltOnlyHalts : Obligations.HltOnlyHalts := exec_hlt

end Sys2Proof.Proofs

/-! Proofs about faults: which steps end in `Faulted` and with which record, and the obligations of
spec/60_exceptions.md that follow. -/

namespace Sys2Proof.Machine

/-- The execute step faults only on a missing register (60_exceptions.md R119). -/
theorem exec_not_faulted {i : Instr} (h : RegistersExist i) {s t : State} (hs : s.engine ≠ .faulted)
    (he : exec i s = .next t) : t.engine ≠ .faulted := by
  by_cases hi : i = .hlt
  · subst hi
    cases he
    simp
  · obtain ⟨u, e, -, -, heng, -⟩ := exec_completes hi h s
    cases he.symm.trans e
    exact heng.symm ▸ hs

/-- A fault that the execute step enters records the missing register, so it is not one of Memory. -/
theorem exec_fault_ne_outOfBounds {i : Instr} {s t : State} (hs : s.engine ≠ .faulted) (he : exec i s = .next t)
    (ht : t.engine = .faulted) (a : Nat) : t.fault ≠ some (.outOfBounds a) := by
  have hmissing : ¬ RegistersExist i := fun h => exec_not_faulted h hs he ht
  obtain ⟨k, -, -, e⟩ := exec_of_not_registersExist hmissing s
  cases he.symm.trans e
  simp

/-- Fault entry is precise (60_exceptions.md R122): a step that ends in `Faulted` is one that raised a fault, because what
runs otherwise is an instruction whose registers exist. -/
theorem step_faulted_explained_and_precise {s t : State} (hs : step s = .next t) (ht : t.engine = .faulted) :
    ∃ r : FaultRecord, r.ExplainedBy s ∧ t.fault = some r ∧
      t.mem = s.mem ∧ t.regs = s.regs ∧ t.pc = s.pc ∧ t.output = s.output := by
  rcases step_raises_or_runs (active_of_step hs) with ⟨r, hr, t', hs', -, hframe⟩ | ⟨op, -, -, hreg, e⟩
  · cases hs.symm.trans hs'
    exact ⟨r, hr, hframe⟩
  · exact absurd ht (exec_not_faulted hreg (by simp) (e.symm.trans hs))

theorem step_of_faulted {s : State} (h : s.engine = .faulted) : step s = .fault .faultedHasNoStep := by
  rcases step_cases s with ⟨ha, -⟩ | ⟨he, -⟩ | ⟨-, e⟩
  · rcases ha with ha | ha <;> cases h.symm.trans ha
  · cases h.symm.trans he
  · exact e

/-- A step raises `OutOfBounds` exactly when the opcode byte or the last byte of the instruction it begins is outside
Memory: each case of the cycle makes both sides true or both false. -/
theorem step_outOfBounds_iff {s : State} (ha : s.Active) :
    (∃ t a, step s = .next t ∧ t.engine = .faulted ∧ t.fault = some (.outOfBounds a)) ↔
      Config.memCapacity ≤ s.pc.toNat ∨
      ∃ op, s.codeByte 0 = (rowOf op).opcode ∧ Config.memCapacity ≤ s.pc.toNat + (rowOf op).operandCount := by
  rw [step_of_active ha]
  rcases cycle_cases s with ⟨hpc, e⟩ | ⟨hpc, hnone, e⟩ | ⟨op, hpc, hb, ⟨hn, hout, e⟩ | ⟨hn, -, hout, e⟩ | ⟨hin, e⟩⟩
  · exact iff_of_true ⟨_, _, e, rfl, rfl⟩ (.inl hpc)
  · refine iff_of_false ?_ ?_
    · rintro ⟨t, a, h, -, hfault⟩
      cases h.symm.trans e
      cases hfault
    · rintro (hout | ⟨op, hb, -⟩)
      · omega
      · cases (lookup_rowOf op).symm.trans ((congrArg lookup hb).symm.trans hnone)
  · exact iff_of_true ⟨_, _, e, rfl, rfl⟩ (.inr ⟨op, hb, by omega⟩)
  · exact iff_of_true ⟨_, _, e, rfl, rfl⟩ (.inr ⟨op, hb, by omega⟩)
  · refine iff_of_false ?_ ?_
    · rintro ⟨t, a, h, heng, hfault⟩
      exact exec_fault_ne_outOfBounds (by simp) (e.symm.trans h) heng a hfault
    · rintro (hout | ⟨op', hb', hout⟩)
      · omega
      · obtain rfl : op = op' := rowOf_opcode_injective (hb.symm.trans hb')
        omega

/-- The accesses of an instruction by the opcodes that need them: every fetch, operand a of PRN, LDI and MUL, operand b of
LDI and MUL (40_engine_cycle.md R77, R79). -/
theorem access_outside_iff (s : State) :
    (Config.memCapacity ≤ s.pc.toNat ∨
      ∃ op, s.codeByte 0 = (rowOf op).opcode ∧ Config.memCapacity ≤ s.pc.toNat + (rowOf op).operandCount) ↔
    (Config.memCapacity ≤ s.pc.toNat ∨
      (s.codeByte 0 ∈ [(0x47 : Byte), 0x82, 0xA2] ∧ Config.memCapacity ≤ s.pc.toNat + 1) ∨
      (s.codeByte 0 ∈ [(0x82 : Byte), 0xA2] ∧ Config.memCapacity ≤ s.pc.toNat + 2)) := by
  constructor
  · rintro (hpc | ⟨op, hb, hout⟩)
    · exact .inl hpc
    · cases op with
      | hlt => exact .inl hout
      | prn => exact .inr (.inl ⟨by simp [hb, rowOf], hout⟩)
      | ldi | mul => exact .inr (.inr ⟨by simp [hb, rowOf], hout⟩)
  · simp only [List.mem_cons, List.not_mem_nil, or_false]
    rintro (hpc | ⟨hb | hb | hb, hout⟩ | ⟨hb | hb, hout⟩)
    · exact .inl hpc
    · exact .inr ⟨.prn, hb, hout⟩
    · exact .inr ⟨.ldi, hb, Nat.le_succ_of_le hout⟩
    · exact .inr ⟨.mul, hb, Nat.le_succ_of_le hout⟩
    · exact .inr ⟨.ldi, hb, hout⟩
    · exact .inr ⟨.mul, hb, hout⟩

end Sys2Proof.Machine

namespace Sys2Proof.Proofs

open Sys2Proof Sys2Proof.Machine

/-- Settles O38: the accesses of the instruction at `pc` decide whether the fault is raised, and the record it leaves is
explained, so its address is outside. -/
theorem outOfBoundsExactlyWhenAccessIsOutside : Obligations.OutOfBoundsExactlyWhenAccessIsOutside := by
  refine fun s ha => ⟨(step_outOfBounds_iff ha).trans (access_outside_iff s), fun t a hs ht hfault => ?_⟩
  obtain ⟨r, hr, hfault', -⟩ := step_faulted_explained_and_precise hs ht
  cases hfault.symm.trans hfault'
  obtain ⟨hout, -, -⟩ := hr
  exact hout

/-- Settles O40: fault entry sets engine and record, and what ran before it in the cycle wrote the latches only. -/
theorem faultsArePrecise : Obligations.FaultsArePrecise := by
  intro s t hs ht
  obtain ⟨r, -, hfault, hmem, hregs, hpc, hout⟩ := step_faulted_explained_and_precise hs ht
  exact ⟨by simp [hfault], hmem, hregs, hout, hpc⟩

/-- Settles O41: the step left its record, and a machine in `Faulted` has ended. -/
theorem firstFaultEndsTheRun : Obligations.FirstFaultEndsTheRun := by
  intro s t hs ht
  obtain ⟨r, -, hfault, -⟩ := step_faulted_explained_and_precise hs ht
  exact ⟨⟨r, hfault⟩, step_of_faulted ht, drive_ended (.inr ht)⟩

/-- Settles O26: the execute step finds the missing register, and decoding, which is O1, checks no operand. -/
theorem badRegisterIndexFaultsAtExecute : Obligations.BadRegisterIndexFaultsAtExecute := by
  intro i s hmissing
  obtain ⟨k, -, -, e⟩ := exec_of_not_registersExist hmissing s
  refine ⟨⟨_, _, e, rfl, rfl, rfl⟩, fun hwf => ?_⟩
  simpa using decodeOfEncodeIsTheInstruction i [] hwf

/-- Settles O27: the fault operation's one update, of engine and record (60_exceptions.md R121). -/
theorem raisingAFaultDoesNothingElse : Obligations.RaisingAFaultDoesNothingElse := fun _ _ => rfl

end Sys2Proof.Proofs

/-! Proofs about booting and the end of a run: which bytes a load lays where, that a loaded machine meets the invariant,
how many steps a run can have, and the obligations of spec/70_reset_and_hazards.md that follow. -/

namespace Sys2Proof.Machine

/-! ## The loaded machine -/

/-- The cell `k` past the start of laid bytes holds the byte `k` of them, and past their end what it held before. -/
theorem storeBytes_cell {m : Memory} (hm : m.wf = true) {p : Nat} {bs : List Byte}
    (hlen : p + bs.length ≤ Config.memCapacity) (k : Nat) :
    (storeBytes m p bs).cell (p + k) = bs.getD k (m.cell (p + k)) := by
  rcases Nat.lt_or_ge k bs.length with hk | hk
  · rw [← codeFrom_getD (by omega) (storeBytes m p bs) (m.cell (p + k)), codeFrom_storeBytes hm hlen,
      List.getD_append _ _ _ _ hk]
  · rw [storeBytes_cell_of_outside hm (.inr (Nat.add_le_add_left hk p)), List.getD_eq_default _ _ hk]

/-- In `Ready` the invariant asks of Memory its canonical form only: the loader may put any bytes there. -/
theorem State.Inv.setMem {s : State} (h : s.Inv) (hs : s.engine = .ready) {m : Memory} (hm : m.wf = true) :
    (s.setMem m).Inv where
  memWf := hm
  pcInRange := h.pcInRange
  faultIffFaulted := h.faultIffFaulted
  faultExplained _ hr := by cases (h.fault_eq_none (.inl hs)).symm.trans hr
  haltedAtHlt he := by cases hs.symm.trans he
  readyIsFresh _ := by
    have hfresh := congrArg (State.setMem · m) (h.readyIsFresh hs)
    exact hfresh

theorem runImage_of_length_le {image : List Byte} (hlen : image.length ≤ Config.memCapacity) (n : Nat) :
    runImage image n = .ok (drive n (State.reset.setMem (storeBytes [] 0 image))) := by
  simp only [runImage, boot_of_length_le hlen]

/-! ## The length of a run -/

theorem active_or_ended (s : State) : s.Active ∨ s.Ended := by
  rcases step_cases s with ⟨ha, -⟩ | ⟨he, -⟩ | ⟨he, -⟩
  · exact .inl ha
  · exact .inr (.inl he)
  · exact .inr (.inr he)

theorem two_le_pcAdvance {i : Instr} (hi : i ≠ .hlt) : 2 ≤ pcAdvance i := by
  cases i with
  | hlt => exact absurd rfl hi
  | prn | ldi | mul => simp [pcAdvance]

/-- A step exists for an active machine, and it ends the run or moves `pc` on by at least the two bytes of the shortest
instruction that has an operand (40_engine_cycle.md R89). -/
theorem step_ends_or_advances {s : State} (ha : s.Active) :
    ∃ t, step s = .next t ∧ (t.Ended ∨ s.pc.toNat + 2 ≤ t.pc.toNat) := by
  rcases step_raises_or_runs ha with ⟨_, -, t, hs, heng, -⟩ | ⟨op, -, hin, hreg, e⟩
  · exact ⟨t, hs, .inl (.inr heng)⟩
  · by_cases hi : s.fetched op = .hlt
    · exact ⟨_, e.trans (hi ▸ exec_hlt _), .inl (.inl rfl)⟩
    · obtain ⟨t, e', -, -, hpc⟩ := exec_advances_pc hreg (s := s.latched (s.fetched op)) (by simpa using hin)
      have hadv := two_le_pcAdvance hi
      rw [State.latched_pc] at hpc
      exact ⟨t, e.trans e', .inr (by omega)⟩

/-- From a `pc` in `[0, C]` a run has at most `(C - pc) / 2 + 1` steps: each but the last moves `pc` on by two or more,
and none takes it past `C`. -/
theorem drive_ended_of_le {s : State} (hpc : s.pc.toNat ≤ Config.memCapacity) {n : Nat}
    (hn : (Config.memCapacity - s.pc.toNat) / 2 + 1 ≤ n) : (drive n s).Ended := by
  induction n generalizing s with
  | zero => exact absurd hn (Nat.not_succ_le_zero _)
  | succ n ih =>
    rcases active_or_ended s with ha | hended
    · obtain ⟨t, hs, hcases⟩ := step_ends_or_advances ha
      have hdrive : drive (n + 1) s = drive n t := by simp only [drive, hs]
      rw [hdrive]
      rcases hcases with hended | hadv
      · rwa [drive_ended hended]
      · obtain ⟨-, hle⟩ := step_pc_mono_and_le hpc hs
        exact ih hle (by omega)
    · rwa [drive_ended hended]

end Sys2Proof.Machine

namespace Sys2Proof.Proofs

open Sys2Proof Sys2Proof.Machine

/-- Settles O12: the load lays the image's bytes from address 0 on into the Memory of reset, where every cell reads 0. -/
theorem bootLoadsImageFromAddressZero : Obligations.BootLoadsImageFromAddressZero := by
  intro image hlen
  refine ⟨_, boot_of_length_le hlen, storeBytes_wf rfl 0 image, fun k hk => ?_⟩
  have hcell := storeBytes_cell (m := []) rfl (p := 0) (by rwa [Nat.zero_add]) k
  rw [Nat.zero_add] at hcell
  rw [memRead_of_lt hk, hcell]
  rfl

/-- Settles O15: the loaded machine meets the invariant, which ties `Faulted` to the record and which every step keeps,
and it starts at `pc` 0, from where a run has at most `C / 2 + 1` steps. -/
theorem anyImageMayBeLoadedAndRun : Obligations.AnyImageMayBeLoadedAndRun := by
  intro image n hlen
  have hloaded : (State.reset.setMem (storeBytes [] 0 image)).Inv :=
    resetMeetsInvariant.setMem rfl (storeBytes_wf rfl 0 image)
  have hrun := drive_preserves (fun _ _ h hs => State.Inv.of_step h hs) n hloaded
  exact ⟨_, runImage_of_length_le hlen n, hrun.faultIffFaulted.symm, drive_ended_of_le hloaded.pcInRange⟩

end Sys2Proof.Proofs

/-! Proofs that the hidden latches are never observed: which step a failing check of a cycle makes, the relation of two
machines that differ at most in the latches, and the obligation of spec/10_state.md R36 that follows. -/

namespace Sys2Proof.Machine

/-! ## The checks of a cycle, in their order -/

/-- With a table opcode at `pc`, the step faults at the first operand byte outside Memory or runs the instruction. -/
theorem step_cases_of_codeByte {s : State} {op : Op} (ha : s.Active) (hpc : s.pc.toNat < Config.memCapacity)
    (hb : s.codeByte 0 = (rowOf op).opcode) :
    (1 ≤ (rowOf op).operandCount ∧ Config.memCapacity ≤ s.pc.toNat + 1 ∧
      step s = .next (((s.setEngine .running).latchIr (rowOf op).opcode).faultWith
        (.outOfBounds (s.pc.toNat + 1)))) ∨
    (2 ≤ (rowOf op).operandCount ∧ s.pc.toNat + 1 < Config.memCapacity ∧ Config.memCapacity ≤ s.pc.toNat + 2 ∧
      step s = .next ((((s.setEngine .running).latchIr (rowOf op).opcode).latchOpa (s.codeByte 1)).faultWith
        (.outOfBounds (s.pc.toNat + 2)))) ∨
    (s.pc.toNat + (rowOf op).operandCount < Config.memCapacity ∧
      step s = exec (s.fetched op) (s.latched (s.fetched op))) := by
  rw [step_of_active ha]
  rcases cycle_cases s with ⟨hout, -⟩ | ⟨-, hnone, -⟩ | ⟨op', -, hb', hcases⟩
  · omega
  · cases (lookup_rowOf op).symm.trans ((congrArg lookup hb).symm.trans hnone)
  · obtain rfl : op = op' := rowOf_opcode_injective (hb.symm.trans hb')
    exact hcases

theorem step_of_fetch_outside {s : State} (ha : s.Active) (hpc : Config.memCapacity ≤ s.pc.toNat) :
    step s = .next ((s.setEngine .running).faultWith (.outOfBounds s.pc.toNat)) := by
  rw [step_of_active ha]
  rcases cycle_cases s with ⟨-, e⟩ | ⟨hin, -⟩ | ⟨_, hin, -⟩
  · exact e
  all_goals exact absurd hpc (Nat.not_le.2 hin)

theorem step_of_operandA_outside {s : State} {op : Op} (ha : s.Active) (hpc : s.pc.toNat < Config.memCapacity)
    (hb : s.codeByte 0 = (rowOf op).opcode) (hn : 1 ≤ (rowOf op).operandCount)
    (hout : Config.memCapacity ≤ s.pc.toNat + 1) :
    step s = .next (((s.setEngine .running).latchIr (rowOf op).opcode).faultWith
      (.outOfBounds (s.pc.toNat + 1))) := by
  rcases step_cases_of_codeByte ha hpc hb with ⟨-, -, e⟩ | ⟨-, hin, -⟩ | ⟨hin, -⟩
  · exact e
  all_goals omega

theorem step_of_operandB_outside {s : State} {op : Op} (ha : s.Active) (hin : s.pc.toNat + 1 < Config.memCapacity)
    (hb : s.codeByte 0 = (rowOf op).opcode) (hn : 2 ≤ (rowOf op).operandCount)
    (hout : Config.memCapacity ≤ s.pc.toNat + 2) :
    step s = .next ((((s.setEngine .running).latchIr (rowOf op).opcode).latchOpa (s.codeByte 1)).faultWith
      (.outOfBounds (s.pc.toNat + 2))) := by
  rcases step_cases_of_codeByte ha (Nat.lt_of_succ_lt hin) hb with ⟨-, hout1, -⟩ | ⟨-, -, -, e⟩ | ⟨hin2, -⟩
  · omega
  · exact e
  · omega

/-! ## Two machines that differ at most in the latches -/

/-- Latches that hold other values, for states that agree in everything else. -/
theorem State.SameButLatches.exists_latches {s t : State} (h : s.SameButLatches t) :
    ∃ ir opa opb, t = { s with ir := ir, opa := opa, opb := opb } := ⟨_, _, _, h⟩

theorem State.SameButLatches.observations {s t : State} (h : s.SameButLatches t) :
    observe s = observe t ∧ s.output = t.output ∧ runResult s = runResult t := by
  obtain ⟨_, _, _, rfl⟩ := h.exists_latches
  exact ⟨rfl, rfl, rfl⟩

theorem State.SameButLatches.latched {s t : State} (h : s.SameButLatches t) (i : Instr) :
    (s.latched i).SameButLatches (t.latched i) := by
  obtain ⟨_, _, _, rfl⟩ := h.exists_latches
  cases i <;> rfl

/-- The execute step takes its operands from the instruction, never from a latch, and writes no latch. -/
theorem State.SameButLatches.exec {s t : State} (h : s.SameButLatches t) (i : Instr) :
    ∃ s' t', exec i s = .next s' ∧ exec i t = .next t' ∧ s'.SameButLatches t' := by
  obtain ⟨_, _, _, rfl⟩ := h.exists_latches
  cases i with
  | hlt => exact ⟨_, _, exec_hlt _, exec_hlt _, rfl⟩
  | prn a =>
    rcases Nat.lt_or_ge a Config.regCount with ha | ha
    · exact ⟨_, _, exec_prn_of_lt ha _, exec_prn_of_lt ha _, rfl⟩
    · exact ⟨_, _, exec_prn_of_le ha _, exec_prn_of_le ha _, rfl⟩
  | ldi a b =>
    rcases Nat.lt_or_ge a Config.regCount with ha | ha
    · exact ⟨_, _, exec_ldi_of_lt ha b _, exec_ldi_of_lt ha b _, rfl⟩
    · exact ⟨_, _, exec_ldi_of_le ha b _, exec_ldi_of_le ha b _, rfl⟩
  | mul a b =>
    rcases Nat.lt_or_ge a Config.regCount with ha | ha
    · rcases Nat.lt_or_ge b Config.regCount with hb | hb
      · exact ⟨_, _, exec_mul_of_lt ha hb _, exec_mul_of_lt ha hb _, rfl⟩
      · exact ⟨_, _, exec_mul_bad_src ha hb _, exec_mul_bad_src ha hb _, rfl⟩
    · exact ⟨_, _, exec_mul_bad_dest ha b _, exec_mul_bad_dest ha b _, rfl⟩

/-- One step keeps the relation: `pc` and Memory decide which check fails or which instruction runs, and a cycle loads
the latches it uses before it uses them (40_engine_cycle.md R80). -/
theorem State.SameButLatches.step {s t : State} (h : s.SameButLatches t) (ha : s.Active) :
    ∃ s' t', step s = .next s' ∧ step t = .next t' ∧ s'.SameButLatches t' := by
  have hexec := fun i => (h.latched i).exec i
  obtain ⟨ir, opa, opb, rfl⟩ := h.exists_latches
  rcases Nat.lt_or_ge s.pc.toNat Config.memCapacity with hpc | hpc
  · cases hl : lookup (s.codeByte 0) with
    | none =>
      obtain ⟨h1, h2, h3, h4⟩ := (lookup_eq_none_iff _).1 hl
      exact ⟨_, _, Proofs.unknownOpcodeIsRecorded s ha hpc h1 h2 h3 h4,
        Proofs.unknownOpcodeIsRecorded { s with ir := ir, opa := opa, opb := opb } ha hpc h1 h2 h3 h4, rfl⟩
    | some row =>
      obtain ⟨hb, -⟩ := lookup_eq_some hl
      rcases step_cases_of_codeByte ha hpc hb with ⟨hn, hout, e⟩ | ⟨hn, hin, hout, e⟩ | ⟨hin, e⟩
      · exact ⟨_, _, e, step_of_operandA_outside ha hpc hb hn hout, rfl⟩
      · exact ⟨_, _, e, step_of_operandB_outside ha hin hb hn hout, rfl⟩
      · obtain ⟨s', t', es, et, hsame⟩ := hexec (s.fetched row.op)
        have e' := step_of_codeByte (s := { s with ir := ir, opa := opa, opb := opb }) ha hb hin
        exact ⟨s', t', e.trans es, e'.trans et, hsame⟩
  · exact ⟨_, _, step_of_fetch_outside ha hpc, step_of_fetch_outside ha hpc, rfl⟩

theorem State.SameButLatches.ended {s t : State} (h : s.SameButLatches t) (he : s.Ended) : t.Ended := by
  obtain ⟨_, _, _, rfl⟩ := h.exists_latches
  exact he

theorem drive_succ_of_next {s t : State} (h : step s = .next t) (n : Nat) : drive (n + 1) s = drive n t := by
  simp only [drive, h]

/-- The relation is kept by a run of any length: both machines step, or both have ended. -/
theorem State.SameButLatches.drive {s t : State} (h : s.SameButLatches t) (n : Nat) :
    (drive n s).SameButLatches (drive n t) := by
  induction n generalizing s t with
  | zero => exact h
  | succ n ih =>
    rcases active_or_ended s with ha | he
    · obtain ⟨s', t', hs, ht, hsame⟩ := h.step ha
      rw [drive_succ_of_next hs, drive_succ_of_next ht]
      exact ih hsame
    · rwa [drive_ended he, drive_ended (h.ended he)]

end Sys2Proof.Machine

namespace Sys2Proof.Proofs

open Sys2Proof Sys2Proof.Machine

/-- Settles O52: to differ at most in the latches is kept by each step of the run, and no observation reads a latch. -/
theorem hiddenLatchesAreNeverObserved : Obligations.HiddenLatchesAreNeverObserved :=
  fun n _ _ h => ⟨h.drive n, (h.drive n).observations⟩

end Sys2Proof.Proofs

/-! Proofs about the assembler's refusals: what an operand token that is read stands for, the tokens that no reader takes,
and the obligation of spec/30_encoding.md that follows. -/

namespace Sys2Proof.Machine

/-! ## A token that is read is a value of an operand byte -/

theorem byteValue_eq_some {n v : Nat} (h : byteValue n = some v) : operandFits v = true := by
  unfold byteValue at h
  split at h
  · next hn => cases h; exact hn
  · cases h

theorem byteValue_of_le {n : Nat} (h : 256 ≤ n) : byteValue n = none := by
  simp [byteValue, operandFits, Nat.not_lt.2 h]

theorem readDecimal_fits {t : List Char} {v : Nat} (h : readDecimal t = some v) : operandFits v = true := by
  cases t with
  | nil => cases h
  | cons c cs =>
    obtain ⟨n, -, hn⟩ := Option.bind_eq_some_iff.1 h
    exact byteValue_eq_some hn

theorem readRegister_fits {t : List Char} {v : Nat} (h : readRegister t = some v) : operandFits v = true := by
  unfold readRegister at h
  split at h
  · exact readDecimal_fits h
  · cases h

theorem hexDigit_lt {c : Char} {d : Nat} (h : hexDigit c = some d) : d < 16 := by
  unfold hexDigit at h
  split_ifs at h <;> cases h <;> omega

theorem readImmediate_fits {t : List Char} {v : Nat} (h : readImmediate t = some v) : operandFits v = true := by
  unfold readImmediate at h
  split at h
  · split at h
    · next ha hb =>
      cases h
      have hhigh := hexDigit_lt ha
      have hlow := hexDigit_lt hb
      exact decide_eq_true (by omega)
    · cases h
  · exact readDecimal_fits h

theorem readOperands_wf {op : Op} {tokens : List (List Char)} {i : Instr} (h : readOperands op tokens = .ok i) :
    i.wf = true := by
  unfold readOperands at h
  split at h
  · cases h
    rfl
  · next t =>
    cases ha : readRegister t <;> rw [ha] at h <;> cases h
    exact readRegister_fits ha
  · split at h
    · next ha hb =>
      cases h
      exact Bool.and_eq_true_iff.2 ⟨readRegister_fits ha, readImmediate_fits hb⟩
    · cases h
  · split at h
    · next ha hb =>
      cases h
      exact Bool.and_eq_true_iff.2 ⟨readRegister_fits ha, readRegister_fits hb⟩
    · cases h
  · cases h

theorem parseLine_wf {line : List Char} {i : Instr} (h : parseLine line = .ok i) : i.wf = true := by
  simp only [parseLine] at h
  split at h
  · cases h
  · exact readOperands_wf h

/-! ## A token that is not read makes the line a bad operand -/

theorem parseLine_ldi_bad {t u : List Char} (ht : IsToken t) (hu : IsToken u)
    (h : readRegister t = none ∨ readImmediate u = none) :
    parseLine (mnemonicOf .ldi ++ ' ' :: t ++ ',' :: u) = .error .badOperand := by
  rw [parseLine_two_operands .ldi ht hu]
  rcases h with h | h
  · simp only [readOperands, h]
  · cases hr : readRegister t <;> simp only [readOperands, hr, h]

theorem parseLine_mul_bad {t u : List Char} (ht : IsToken t) (hu : IsToken u)
    (h : readRegister t = none ∨ readRegister u = none) :
    parseLine (mnemonicOf .mul ++ ' ' :: t ++ ',' :: u) = .error .badOperand := by
  rw [parseLine_two_operands .mul ht hu]
  rcases h with h | h
  · simp only [readOperands, h]
  · cases hr : readRegister t <;> simp only [readOperands, hr, h]

theorem readRegister_decimal_of_le {n : Nat} (h : 256 ≤ n) : readRegister ('r' :: decimal n) = none :=
  (readRegister_decimal n).trans (byteValue_of_le h)

theorem readImmediate_decimal_of_le {n : Nat} (h : 256 ≤ n) : readImmediate (decimal n) = none :=
  (readImmediate_decimal n).trans (byteValue_of_le h)

/-! ## Hex literals -/

theorem isBlank_eq_false_and_ne_comma_of_hexDigit {c : Char} (h : (hexDigit c).isSome = true) :
    isBlank c = false ∧ c ≠ ',' := by
  have hne : ∀ d : Char, hexDigit d = none → c ≠ d := fun d hd e => by simp [e, hd] at h
  exact ⟨by simp [isBlank, hne ' ' (by decide), hne '\t' (by decide)], hne ',' (by decide)⟩

theorem isToken_hex {ds : List Char} (h : ∀ c ∈ ds, (hexDigit c).isSome = true) : IsToken ('0' :: 'x' :: ds) := by
  refine ⟨List.cons_ne_nil _ _, List.forall_mem_cons.2 ⟨by decide, List.forall_mem_cons.2 ⟨by decide, fun c hc => ?_⟩⟩⟩
  exact isBlank_eq_false_and_ne_comma_of_hexDigit (h c hc)

/-- After `0x` come exactly two digits: with more, the token is read as a decimal number, and `x` is no decimal digit. -/
theorem readImmediate_long_hex {ds : List Char} (h : 2 < ds.length) : readImmediate ('0' :: 'x' :: ds) = none := by
  unfold readImmediate
  split
  · next e => cases e; exact absurd h (Nat.lt_irrefl 2)
  · rfl

end Sys2Proof.Machine

namespace Sys2Proof.Proofs

open Sys2Proof Sys2Proof.Machine

/-- Settles O7: each token that is read has a value of its byte, and each refused line has a token that no reader takes. -/
theorem assemblerYieldsOnlyEncodable : Obligations.AssemblerYieldsOnlyEncodable := by
  refine ⟨fun _ _ => parseLine_wf, fun a n hn => ?_, fun a ds hlen hds => ?_⟩
  · have hreg := readRegister_decimal_of_le hn
    have himm := readImmediate_decimal_of_le hn
    have hprn : parseLine (mnemonicOf .prn ++ ' ' :: 'r' :: decimal n) = .error .badOperand := by
      rw [parseLine_one_operand .prn (isToken_register n)]
      simp only [readOperands, hreg]
      rfl
    have hldiA := parseLine_ldi_bad (isToken_register n) (isToken_decimal a) (.inl hreg)
    have hldiB := parseLine_ldi_bad (isToken_register a) (isToken_decimal n) (.inr himm)
    have hmulA := parseLine_mul_bad (isToken_register n) (isToken_register a) (.inl hreg)
    have hmulB := parseLine_mul_bad (isToken_register a) (isToken_register n) (.inr hreg)
    simpa only [mnemonicOf, decimal, List.cons_append, List.nil_append, List.append_assoc] using
      And.intro hprn ⟨hldiA, hldiB, hmulA, hmulB⟩
  · have hldi := parseLine_ldi_bad (isToken_register a) (isToken_hex hds) (.inr (readImmediate_long_hex hlen))
    simpa only [mnemonicOf, decimal, List.cons_append, List.nil_append, List.append_assoc] using hldi

end Sys2Proof.Proofs

/-! Proofs about the loader port: what an image that is too long and any list of writes leave, the length of the run of a
loaded machine, and the obligations of spec/10_state.md R33 and spec/70_reset_and_hazards.md that follow. -/

namespace Sys2Proof.Machine

/-- An image that does not fit loads up to the end of Memory, and the write to `C` fails (70_reset_and_hazards.md R144). -/
theorem loadPairs_imagePairs_too_long {s : State} (hs : s.engine = .ready) {k : Nat} {image : List Byte}
    (hk : k ≤ Config.memCapacity) (hlen : Config.memCapacity < k + image.length) :
    ∃ m, loadPairs (imagePairs k image) s =
      .failed (.memoryFault (.outOfBounds Config.memCapacity)) (s.setMem m) := by
  induction image generalizing s k with
  | nil => exact absurd hk (Nat.not_le.2 hlen)
  | cons b image ih =>
    rw [List.length_cons] at hlen
    rcases loaderWrite_cases k b s with ⟨hne, -⟩ | ⟨-, hout, e⟩ | ⟨-, hin, e⟩
    · exact absurd hs hne
    · obtain rfl : k = Config.memCapacity := Nat.le_antisymm hk hout
      exact ⟨s.mem, by simp only [imagePairs, loadPairs, e]; rfl⟩
    · obtain ⟨m, hm⟩ := ih (s := s.setMem (s.mem.store k b)) hs hin (by omega)
      exact ⟨m, by simp only [imagePairs, loadPairs, e, hm]; rfl⟩

theorem boot_of_lt_length {image : List Byte} (hlen : Config.memCapacity < image.length) :
    ∃ m, boot image = .failed (.memoryFault (.outOfBounds Config.memCapacity)) (State.reset.setMem m) :=
  loadPairs_imagePairs_too_long rfl (Nat.zero_le _) (by omega)

/-- One loader write, done or failed, keeps the invariant and the engine state. -/
theorem State.Inv.of_loaderWrite {s t : State} (h : s.Inv) {a : Nat} {v : Byte}
    (hl : loaderWrite a v s = .loaded t ∨ ∃ why, loaderWrite a v s = .failed why t) :
    t.Inv ∧ t.engine = s.engine := by
  rcases loaderWrite_cases a v s with ⟨-, e⟩ | ⟨-, -, e⟩ | ⟨hs, ha, e⟩ <;> rw [e] at hl <;>
    rcases hl with hl | ⟨why, hl⟩ <;> cases hl
  · exact ⟨h, rfl⟩
  · exact ⟨h, rfl⟩
  · exact ⟨h.setMem hs (Memory.wf_store ha h.memWf), rfl⟩

/-- Any list of loader writes, up to the first failure, keeps the invariant and the engine state. -/
theorem State.Inv.of_loadPairs {s t : State} (h : s.Inv) {pairs : List Host.Cell}
    (hl : loadPairs pairs s = .loaded t ∨ ∃ why, loadPairs pairs s = .failed why t) :
    t.Inv ∧ t.engine = s.engine := by
  induction pairs generalizing s with
  | nil =>
    rcases hl with hl | ⟨why, hl⟩ <;> cases hl
    exact ⟨h, rfl⟩
  | cons p pairs ih =>
    cases hw : loaderWrite p.1 p.2 s with
    | loaded u =>
      obtain ⟨hu, heng⟩ := h.of_loaderWrite (.inl hw)
      simp only [loadPairs, hw] at hl
      obtain ⟨ht, heng'⟩ := ih hu hl
      exact ⟨ht, heng'.trans heng⟩
    | failed why u =>
      simp only [loadPairs, hw] at hl
      rcases hl with hl | ⟨why', hl⟩ <;> cases hl
      exact h.of_loaderWrite (.inr ⟨why, hw⟩)

end Sys2Proof.Machine

namespace Sys2Proof.Proofs

open Sys2Proof Sys2Proof.Machine

/-- Settles O11: the three cases of a loader write, the last of them a store that reads of other cells do not see. -/
theorem loaderPortWritesOneCellInReady : Obligations.LoaderPortWritesOneCellInReady := by
  intro a v s hwf
  rcases loaderWrite_cases a v s with ⟨hs, e⟩ | ⟨hs, ha, e⟩ | ⟨hs, ha, e⟩
  · exact ⟨fun _ => e, fun h => absurd h hs, fun h => absurd h hs⟩
  · exact ⟨fun h => absurd hs h, fun _ _ => e, fun _ h => absurd h (Nat.not_lt.2 ha)⟩
  · exact ⟨fun h => absurd hs h, fun _ h => absurd ha (Nat.not_lt.2 h),
      fun _ _ => ⟨_, e, memRead_store_same hwf ha v, fun _ hb => memRead_store_ne hwf hb v⟩⟩

/-- Settles O13: the load of a fresh machine fails at the write to `C`, and a failed load is the error of the run. -/
theorem bootRefusesImageTooLong : Obligations.BootRefusesImageTooLong := by
  intro image hlen
  obtain ⟨m, hboot⟩ := boot_of_lt_length hlen
  exact ⟨⟨m, hboot⟩, fun n => by simp only [runImage, hboot]⟩

/-- Settles O14, by induction on the writes. -/
theorem loaderKeepsInvariant : Obligations.LoaderKeepsInvariant :=
  fun _ _ _ h hl => h.of_loadPairs hl

/-- Settles O51: the bound holds from any `pc` in range, and a loaded machine is in `Ready`, so its `pc` is that of
reset. -/
theorem everyRunEndsWithinTheBound : Obligations.EveryRunEndsWithinTheBound := by
  refine ⟨fun s n hpc hn => drive_ended_of_le hpc hn, fun image s hboot => ?_⟩
  obtain ⟨hinv, hready⟩ := resetMeetsInvariant.of_loadPairs (.inl hboot)
  have hpc : s.pc = 0 := congrArg State.pc (hinv.readyIsFresh hready)
  exact drive_ended_of_le hinv.pcInRange (by simp [hpc])

end Sys2Proof.Proofs

/-! Proofs about the order of a cycle's checks, and the obligation of spec/60_exceptions.md R124 that follows. -/

namespace Sys2Proof.Machine

/-! ## The opcodes by their operands -/

theorem exists_op_of_mem_operand_opcodes {b : Byte} (h : b ∈ [(0x47 : Byte), 0x82, 0xA2]) :
    ∃ op, b = (rowOf op).opcode ∧ 1 ≤ (rowOf op).operandCount := by
  simp only [List.mem_cons, List.not_mem_nil, or_false] at h
  rcases h with rfl | rfl | rfl
  · exact ⟨.prn, rfl, by decide⟩
  · exact ⟨.ldi, rfl, by decide⟩
  · exact ⟨.mul, rfl, by decide⟩

theorem ldi_or_mul_opcode {b : Byte} (h : b ∈ [(0x82 : Byte), 0xA2]) :
    b = (rowOf .ldi).opcode ∨ b = (rowOf .mul).opcode := by
  simp only [List.mem_cons, List.not_mem_nil, or_false] at h
  exact h

/-! ## The fault a step raises -/

theorem State.StepRaises.of_step {s u : State} {r : FaultRecord} (e : step s = .next (u.faultWith r))
    (hmem : u.mem = s.mem) (hregs : u.regs = s.regs) (hpc : u.pc = s.pc) (hout : u.output = s.output) :
    s.StepRaises r :=
  ⟨_, e, rfl, rfl, hmem, hregs, hpc, hout⟩

/-- An instruction inside Memory that faults in its execute step raises that fault. -/
theorem State.StepRaises.of_exec {s : State} {op : Op} {r : FaultRecord} (ha : s.Active)
    (hb : s.codeByte 0 = (rowOf op).opcode) (hin : s.pc.toNat + (rowOf op).operandCount < Config.memCapacity)
    (e : ∀ u, exec (s.fetched op) u = .next (u.faultWith r)) : s.StepRaises r :=
  .of_step ((step_of_codeByte ha hb hin).trans (e _)) (by simp) (by simp) (by simp) (by simp)

end Sys2Proof.Machine

namespace Sys2Proof.Proofs

open Sys2Proof Sys2Proof.Machine

/-- Settles O39: under each clause's hypotheses every earlier check passes, so the step is the fault of that check. -/
theorem firstFailingCheckIsReported : Obligations.FirstFailingCheckIsReported := by
  intro s ha
  refine ⟨fun hpc => ?_, fun hpc hb => ?_, fun hpc hb hout => ?_, fun hin hb hout => ?_, fun hin hb hbad => ?_,
    fun hin hb hbad => ?_, fun hin hb hgood hbad => ?_⟩
  · exact .of_step (step_of_fetch_outside ha hpc) rfl rfl rfl rfl
  · simp only [List.mem_cons, List.not_mem_nil, or_false, not_or] at hb
    obtain ⟨h1, h2, h3, h4⟩ := hb
    exact ⟨_, unknownOpcodeIsRecorded s ha hpc h1 h2 h3 h4, rfl, rfl, rfl, rfl, rfl, rfl⟩
  · obtain ⟨op, hop, hn⟩ := exists_op_of_mem_operand_opcodes hb
    exact .of_step (step_of_operandA_outside ha hpc hop hn hout) rfl rfl rfl rfl
  · rcases ldi_or_mul_opcode hb with hop | hop
    · exact .of_step (step_of_operandB_outside ha hin hop le_rfl hout) rfl rfl rfl rfl
    · exact .of_step (step_of_operandB_outside ha hin hop le_rfl hout) rfl rfl rfl rfl
  · exact .of_exec (op := .prn) ha hb hin (exec_prn_of_le hbad)
  · rcases ldi_or_mul_opcode hb with hop | hop
    · exact .of_exec (op := .ldi) ha hop hin (exec_ldi_of_le hbad _)
    · exact .of_exec (op := .mul) ha hop hin (exec_mul_bad_dest hbad _)
  · exact .of_exec (op := .mul) ha hb hin (exec_mul_bad_src hgood hbad)

end Sys2Proof.Proofs

/-! Proofs about the engine's transitions, and the obligations of spec/40_engine_cycle.md R73 and R74 that follow. -/

namespace Sys2Proof.Machine

theorem opcode_mem_of_ne_hlt {op : Op} (h : op ≠ .hlt) : (rowOf op).opcode ∈ [(0x47 : Byte), 0x82, 0xA2] := by
  cases op with
  | hlt => exact absurd rfl h
  | prn | ldi | mul => simp [rowOf]

/-- The other direction of `State.decode_codeFrom_eq_ok`: an opcode and its operands inside Memory decode. -/
theorem State.decode_codeFrom {s : State} {op : Op} (hb : s.codeByte 0 = (rowOf op).opcode)
    (hin : s.pc.toNat + (rowOf op).operandCount < Config.memCapacity) :
    ∃ rest, decode (codeFrom s.mem s.pc.toNat) = .ok (s.fetched op, rest) := by
  have hlen : (rowOf op).operandCount ≤ (codeFrom s.mem (s.pc.toNat + 1)).length := by
    rw [codeFrom_length]
    omega
  have hcell : s.mem.cell s.pc.toNat = (rowOf op).opcode := hb
  rw [codeFrom_of_lt (by omega), hcell, decode_opcode hlen, State.withOperands_codeFrom hin]
  exact ⟨_, rfl⟩

end Sys2Proof.Machine

namespace Sys2Proof.Proofs

open Sys2Proof Sys2Proof.Machine

/-- Settles O43: an active machine's step faults, halts or goes on, each a next state, and the terminal states are stuck. -/
theorem stepExistsExactlyWhenActive : Obligations.StepExistsExactlyWhenActive := by
  intro s
  rcases active_or_ended s with ha | hh | hf
  · obtain ⟨t, hs, -⟩ := step_ends_or_advances ha
    have hne : s.engine ≠ .halted ∧ s.engine ≠ .faulted := by rcases ha with h | h <;> simp [h]
    exact ⟨iff_of_true ha ⟨t, hs⟩, iff_of_false hne.1 (by simp [hs]), iff_of_false hne.2 (by simp [hs])⟩
  · simp [State.Active, hh, step_of_halted hh]
  · simp [State.Active, hf, step_of_faulted hf]

/-- Settles O44: a step that raised a fault ran no instruction, as one that decodes with its registers present completes
(O31); otherwise the instruction at `pc` ran, and HLT halts while the others go on in `Running`. -/
theorem engineTransitions : Obligations.EngineTransitions := by
  refine ⟨rfl, fun s t hs => ⟨active_of_step hs, ?_⟩, fun s t he hs => ?_⟩
  · have ha := active_of_step hs
    rcases step_raises_or_runs ha with ⟨r, -, t', hs', heng, hfault, -⟩ | ⟨op, hb, hin, hreg, e⟩
    · cases hs.symm.trans hs'
      refine .inr (.inr ⟨heng, ⟨r, hfault⟩, fun i rest hdec hreg => ?_⟩)
      obtain ⟨t', hs', hne, -⟩ := completedCycleAdvancesPc s i rest ha hdec hreg
      cases hs.symm.trans hs'
      exact hne heng
    · obtain ⟨rest, hdec⟩ := State.decode_codeFrom hb hin
      by_cases hop : op = .hlt
      · subst hop
        cases hs.symm.trans e
        exact .inr (.inl ⟨rfl, rfl, hb, rest, hdec⟩)
      · have hi : s.fetched op ≠ .hlt := fun h => hop ((s.fetched_op op).symm.trans (congrArg Instr.op h))
        obtain ⟨u, eu, -, -, heng, hfault⟩ := exec_completes hi hreg (s.latched (s.fetched op))
        cases hs.symm.trans (e.trans eu)
        exact .inl ⟨by simpa using heng, by simpa using hfault, hb ▸ opcode_mem_of_ne_hlt hop, _, rest, hdec, hi, hreg⟩
  · rcases he with he | he
    · cases hs.symm.trans (step_of_halted he)
    · cases hs.symm.trans (step_of_faulted he)

end Sys2Proof.Proofs

/-! Proofs about runs of any length: what every step leaves of Memory and output, and the obligation of spec/20_memory.md
R43 and spec/43_prn.md R110 that follows. -/

namespace Sys2Proof.Machine

theorem step_mem {s t : State} (hs : step s = .next t) : t.mem = s.mem := by
  rcases step_raises_or_runs (active_of_step hs) with ⟨_, -, t', hs', -, -, hmem, -⟩ | ⟨op, -, -, hreg, e⟩
  · cases hs.symm.trans hs'
    exact hmem
  · by_cases hi : s.fetched op = .hlt
    · rw [hi] at e
      cases hs.symm.trans e
      rfl
    · obtain ⟨u, eu, hmem, -⟩ := exec_completes hi hreg (s.latched (s.fetched op))
      cases hs.symm.trans (e.trans eu)
      simpa using hmem

/-- What was emitted before a step is the beginning of what has been emitted after it. -/
theorem step_output_extends {s t : State} (hs : step s = .next t) : s.output <+: t.output := by
  rcases Proofs.oneEventPerCompletedPrn s t hs with ⟨-, -, w, -, hout⟩ | ⟨-, hout⟩
  · exact ⟨[w], hout.symm⟩
  · exact ⟨[], by rw [hout, List.append_nil]⟩

/-- A run of any length keeps Memory and what was emitted, because each step does. -/
theorem drive_mem_and_output (n : Nat) (s : State) : (drive n s).mem = s.mem ∧ s.output <+: (drive n s).output := by
  refine drive_preserves (P := fun t => t.mem = s.mem ∧ s.output <+: t.output) (fun u t hu hs => ?_) n
    ⟨rfl, [], List.append_nil _⟩
  obtain ⟨hmem, hout⟩ := hu
  exact ⟨(step_mem hs).trans hmem, hout.trans (step_output_extends hs)⟩

end Sys2Proof.Machine

namespace Sys2Proof.Proofs

open Sys2Proof Sys2Proof.Machine

/-- Settles O48: a read depends on Memory alone, which the run keeps, and the output begins with what was emitted. -/
theorem runKeepsMemoryAndExtendsOutput : Obligations.RunKeepsMemoryAndExtendsOutput := by
  intro n s
  obtain ⟨hmem, later, hout⟩ := drive_mem_and_output n s
  exact ⟨fun a => by rw [hmem], later, hout.symm⟩

end Sys2Proof.Proofs
